-- ==== Sys2Proof/Word.lean ====
section
/-! DEFINITION. The word types: timestamps and intervals (W_T bits, R10), the event word (R90), the event's op
field (R91). Each takes the parameter W_T as an argument, with this hardware's 32 as its default. -/

namespace Sys2Proof

/-- R10: a W_T-bit word: timestamps, intervals, `last_edge_time`, `sync_width`, buffer entries. `W` is the parameter W_T,
an argument of the types and functions of the model; `Word` alone is this hardware's, 32 bits (D3). Log 7. -/
abbrev Word (W : Nat := 32) := BitVec W

/-- R90: one input event is one word `{op, t}`, `op` in its two upper bits and the W_T-bit `t` below: 34 bits on this
hardware, `op` in bits 33:32 and `t` in bits 31:0. The width for another W_T is DEDUCED, log 7. -/
abbrev EventWord (W : Nat := 32) := BitVec (2 + W)

/-- R90, R91: the `op` field. -/
abbrev Op := BitVec 2

/-- R14, R63: a completed frame is a copy of the buffer's intervals in arrival order, the earliest first. -/
abbrev Frame (W : Nat := 32) := List (Word W)

/-- Text of the event syntax (R104) and of the publisher boundary (R316, R317), as its characters. -/
abbrev Text := List Char

end Sys2Proof
end

