-- ==== Sys2Proof/Config.lean ====
section
/-! DEFINITION. What is fixed when the block is built (R9, R10, R41), and the values the spec leaves open, as opaque
constants (93_implementation_defined.md part B, treatment "any value"). The values this hardware takes are
`Config.hardware`, in Machine/Hardware.lean. -/

namespace Sys2Proof

/-- P_LEN_DIV of R10: how "divided by 2 equals N" is read (R212, D9). -/
inductive LenDiv where
  | exact
  | floor
deriving DecidableEq, Repr

/-- P_NEXUS_SHORT of R10: what the Nexus decoder does with fewer than 36 classified bits (R216, D10). -/
inductive NexusShort where
  | zeroFill
  | reject
deriving DecidableEq, Repr

/-- The constants of R9 and the parameters of R10, but W_T, which is the argument `W` of the types and functions (log 7),
and t0, a draw. Times are in microseconds. -/
structure Config where
  /-- CAP, in intervals. -/
  cap : Nat
  /-- SYNC_TH. -/
  syncTh : Nat
  /-- SYNC_MARGIN. -/
  syncMargin : Nat
  /-- MIN_FRAME, in intervals. -/
  minFrame : Nat
  /-- DZ_LO. -/
  dzLo : Nat
  /-- INACT. -/
  inact : Nat
  /-- TOL_LO_NUM. -/
  tolLoNum : Nat
  /-- TOL_HI_NUM. -/
  tolHiNum : Nat
  /-- TOL_DEN. -/
  tolDen : Nat
  /-- NX_PAIRS. -/
  nxPairs : Nat
  /-- NX_SYNC_PULSE. -/
  nxSyncPulse : Nat
  /-- NX_SYNC_LEN. -/
  nxSyncLen : Nat
  /-- NX_PULSE. -/
  nxPulse : Nat
  /-- NX_GAP0. -/
  nxGap0 : Nat
  /-- NX_GAP1. -/
  nxGap1 : Nat
  /-- AL_BITS. -/
  alBits : Nat
  /-- AL_SYMS. -/
  alSyms : Nat
  /-- AL_SYNC_PULSE. -/
  alSyncPulse : Nat
  /-- AL_SYNC_LEN. -/
  alSyncLen : Nat
  /-- AL_TH. -/
  alTh : Nat
  /-- WD_PERIOD, in milliseconds: the host's suggested tick period. No rule reads it (R9, R314, D26). -/
  wdPeriod : Nat
  /-- P_DZ_EXCLUSIVE (R165, D6). -/
  dzExclusive : Bool
  /-- P_LEN_DIV (R212, R252, D9). -/
  lenDiv : LenDiv
  /-- P_NEXUS_SHORT (R216, D10). -/
  nexusShort : NexusShort
  /-- P_ALARM_BIT_PHASE, 0 or 1 (R254, D13). -/
  alarmPhase : Fin 2
deriving DecidableEq, Repr

/-- FREE VALUE. t0 of R10, R35, R341: what the n-th RESET leaves in `last_edge_time` (n = 0 is `State.reset`).
No value of it can be proved. DESIGN CHOICE, log 4. -/
opaque Config.t0Draw {W : Nat} : Nat → Word W

/-- FREE VALUE. What a buffer entry holds that nothing has written since the n-th RESET (R33, R341): first argument
n, second the index. DESIGN CHOICE, log 5. -/
opaque Config.unwrittenDraw {W : Nat} : Nat → Nat → Word W

/-- FREE VALUE. Whether the serializer delivers the EDGE first when an EDGE and a TICK are ready at once (R69, D5); the
argument counts such pairs. DESIGN CHOICE, log 6. -/
opaque Config.edgeFirst : Nat → Bool

end Sys2Proof
end

