-- ==== Sys2Proof/Syntax.lean ====
section
/-! DEFINITION. The block's "instructions": the four input events of R91, one constructor per row of
spec/opcode_table.json. RESET is no event word (R94): it is an input of the port, in Machine/State.lean. -/

namespace Sys2Proof

/-- R91. Every event carries the `t` field of its word (R90). IDLE and the reserved op ignore it (R176, R177); it is
kept so that an encoding loses no bit. -/
inductive Instr (W : Nat := 32) where
  /-- `op` = 00: a slot with no event (R176). -/
  | idle (t : Word W)
  /-- `op` = 01: one edge, at time `t` (R161). -/
  | edge (t : Word W)
  /-- `op` = 10: one watchdog tick, at time `t` (R175). -/
  | tick (t : Word W)
  /-- `op` = 11: the reserved op (R92, R177). -/
  | rsvd (t : Word W)
deriving DecidableEq, Repr

end Sys2Proof
end

