-- ==== Sys2Proof/Machine/State.lean ====
section
/-! DEFINITION. The state: the four things of R30 (the buffer as `len` and `buf`), the output record of the step just
taken (R95, R40; log 3), and the model's own fields: the input stream (log 1) and two draw counters (logs 4, 5, 6). -/

namespace Sys2Proof.Machine

open Sys2Proof

/-- The capture buffer's entries, written ones only: (index, interval) pairs, indexes strictly rising (R33, R60). An
entry that is not listed has not been written; what it then reads as is `State.bufRead`'s (log 5). -/
abbrev Memory (W : Nat := 32) := List (Nat × Word W)

/-- One item of the input port's stream, in the order the port accepts them (R68). -/
inductive Input (W : Nat := 32) where
  /-- An event word (R90). -/
  | word (w : EventWord W)
  /-- The RESET input is asserted for this step: no event word is accepted (R94, R340). -/
  | reset
  /-- An EDGE at time `te` and a TICK at time `tt` are ready at once; either may go first (R69). -/
  | both (te tt : Word W)
deriving DecidableEq, Repr

/-- The Nexus fields of the output record (R95, R221). -/
structure NexusFields where
  /-- `nx_valid`. -/
  valid : BitVec 1 := 0
  /-- `nx_code` (R97). -/
  code : BitVec 3 := 0
  /-- `nx_pair`. -/
  pair : BitVec 6 := 0
  /-- `nx_nbits`. -/
  nbits : BitVec 6 := 0
  /-- `nx_id`. -/
  id : BitVec 8 := 0
  /-- `nx_battery`. -/
  battery : BitVec 1 := 0
  /-- `nx_channel`. -/
  channel : BitVec 3 := 0
  /-- `nx_temp`, two's complement, tenths of a degree (R217). -/
  temp : BitVec 16 := 0
  /-- `nx_humidity`. -/
  humidity : BitVec 8 := 0
deriving DecidableEq, Repr

/-- The Alarm fields of the output record (R95, R259). -/
structure AlarmFields where
  /-- `al_valid`. -/
  valid : BitVec 1 := 0
  /-- `al_code` (R98). -/
  code : BitVec 2 := 0
  /-- `al_id`. -/
  id : BitVec 16 := 0
  /-- `al_cmd`. -/
  cmd : BitVec 8 := 0
  /-- `al_tri`: 12 symbols of 2 bits, symbol 0 most significant (R99). -/
  tri : BitVec 24 := 0
deriving DecidableEq, Repr

/-- R95: the output record of one event. A field its event does not set is 0. -/
structure OutputRecord where
  /-- `status` (R96). -/
  status : BitVec 7 := 0
  /-- `frame_len`. -/
  frameLen : BitVec 9 := 0
  nx : NexusFields := {}
  al : AlarmFields := {}
deriving DecidableEq, Repr

/-- The machine's state, for timestamps of `W` = W_T bits (R10); `State` alone is this hardware's, 32 bits. -/
structure State (W : Nat := 32) where
  /-- R31: a frame is open. -/
  recording : Bool
  /-- R32: the number of intervals held, 0 to CAP. -/
  len : BitVec 9
  /-- R33: the entries `buf[0..255]`. -/
  buf : Memory W
  /-- R34: the interval that opened the last frame. -/
  syncWidth : Word W
  /-- R35: the timestamp of the most recent EDGE. -/
  lastEdgeTime : Word W
  /-- R95, R40: the output record of the step just taken; none where it accepted no event. No meaning reads it (log 3). -/
  out : Option OutputRecord
  /-- The model's own: what the port will accept, next one first (R68, R90; log 1). -/
  input : List (Input W)
  /-- The model's own: how many RESETs came after the first, the argument of the free values t0 and of unwritten
  entries (logs 4, 5). -/
  resets : Nat
  /-- The model's own: how many simultaneous pairs were ordered, the argument of the free order (log 6). -/
  races : Nat
deriving DecidableEq, Repr

/-- Why the machine stops. It has no constructor: "No event faults, halts, refuses or stops the block" (R160, R300). -/
inductive Fault where
deriving DecidableEq, Repr

/-- Why a meaning is refused. -/
inductive Refusal where
  /-- Raised by `exec` alone, for an instruction that has no meaning yet; safe. No arm raises it: all four events have
  their meaning. -/
  | notModelled (mnemonic : String)
deriving DecidableEq, Repr

/-- R34, R341: the sentinel 2^W_T - 1. -/
abbrev sentinel {W : Nat} : Word W := BitVec.ofNat W (2 ^ W - 1)

/-- R341, for one draw t0 of `last_edge_time`: not recording, `len` 0, the sentinel, no entry written, no output record.
The model's own fields are empty or 0 (logs 1, 4, 6). -/
def State.resetWith {W : Nat} (t0 : Word W) : State W where
  recording := false
  len := 0#9
  buf := []
  syncWidth := sentinel
  lastEdgeTime := t0
  out := none
  input := []
  resets := 0
  races := 0

/-- The machine right after RESET (R341). `last_edge_time` is the free value t0 (R35: "a model takes as a free draw");
log 4. Nothing waits at the port: the event stream comes from outside (log 1). -/
def State.reset : State := State.resetWith (Config.t0Draw 0)

end Sys2Proof.Machine
end

