-- ==== Sys2Proof/Machine/Ops.lean ====
section
/-! DEFINITION. The named operations over the state: the capture buffer (R60 to R63), the registers, the output record
(R12 `emit`, R95), RESET (R340, R341). The block takes no exception and returns from none (R300, R311, R312). -/

namespace Sys2Proof.Machine

open Sys2Proof

variable {W : Nat}

/-- The entry at index `i`; none where nothing has written it. -/
def Memory.read : Memory W → Nat → Option (Word W)
  | [], _ => none
  | (k, v) :: rest, i => if k = i then some v else Memory.read rest i

/-- Write `v` at index `i`, keeping the indexes strictly rising. -/
def Memory.write : Memory W → Nat → Word W → Memory W
  | [], i, v => [(i, v)]
  | (k, u) :: rest, i, v =>
    if i < k then (i, v) :: (k, u) :: rest
    else if i = k then (i, v) :: rest
    else (k, u) :: Memory.write rest i v

/-- The canonical form: indexes strictly rising. An unlisted index has no value, so no entry equals it. -/
def Memory.wf : Memory W → Bool
  | [] => true
  | [_] => true
  | (i, _) :: (j, w) :: rest => decide (i < j) && Memory.wf ((j, w) :: rest)

/-- `BufRead(i)` of R63, which the block uses only for `i < len`. An entry that nothing has written since RESET reads as
a free value (R33, R341: unspecified); log 5. -/
def State.bufRead (s : State W) (i : Nat) : Word W :=
  (s.buf.read i).getD (Config.unwrittenDraw s.resets i)

/-- `BufAppend(v)` of R61, used only when `len < CAP`: `buf[len] <- v`, then `len <- len + 1`. -/
def State.bufAppend (s : State W) (v : Word W) : State W :=
  { s with buf := s.buf.write s.len.toNat v, len := s.len + 1#9 }

/-- `BufClear()` of R62: `len <- 0`; no entry changes. -/
def State.bufClear (s : State W) : State W := { s with len := 0#9 }

/-- The frame readout of R63: `⟨BufRead(0), …, BufRead(len-1)⟩`, as one value. -/
def State.frame (s : State W) : Frame W := (List.range s.len.toNat).map s.bufRead

/-- `recording <- b` (R31). -/
def State.setRecording (s : State W) (b : Bool) : State W := { s with recording := b }

/-- `sync_width <- d` (R34). -/
def State.setSyncWidth (s : State W) (d : Word W) : State W := { s with syncWidth := d }

/-- `last_edge_time <- t` (R35). -/
def State.setLastEdgeTime (s : State W) (t : Word W) : State W := { s with lastEdgeTime := t }

/-- R95: an accepted event starts its own output record, every field 0. -/
def State.beginRecord (s : State W) : State W := { s with out := some {} }

/-- R95: no event was accepted, so there is no record. -/
def State.noRecord (s : State W) : State W := { s with out := none }

/-- `emit` of R12: change the fields of this event's record. -/
def State.emit (s : State W) (f : OutputRecord → OutputRecord) : State W := { s with out := s.out.map f }

/-- RESET (R340, R341): the state takes the reset values, no record is produced, no event word is accepted. t0 is a
fresh free value (log 4) and the buffer's entries are unspecified again (log 5). What waits at the port stays (log 10). -/
def State.applyReset (s : State W) : State W :=
  { State.resetWith (Config.t0Draw (s.resets + 1)) with
    input := s.input, resets := s.resets + 1, races := s.races }

end Sys2Proof.Machine
end

