-- ==== Sys2Proof/Machine/Flags.lean ====
section
/-! DEFINITION. The status bits (R96), the verdict codes (R97, R98) and how an event sets them. -/

namespace Sys2Proof.Machine

open Sys2Proof

variable {W : Nat}

/-- R96, bit 0: a frame was opened. -/
abbrev Status.OPEN : BitVec 7 := 0b0000001#7
/-- R96, bit 1: a frame closed with `len > MIN_FRAME`; both decoders ran. -/
abbrev Status.FRAME : BitVec 7 := 0b0000010#7
/-- R96, bit 2: a frame closed with `len ≤ MIN_FRAME`. -/
abbrev Status.SHORT : BitVec 7 := 0b0000100#7
/-- R96, bit 3: an append found the buffer full. -/
abbrev Status.OVERFLOW : BitVec 7 := 0b0001000#7
/-- R96, bit 4: the dead-zone test fired. -/
abbrev Status.DEADZONE : BitVec 7 := 0b0010000#7
/-- R96, bit 5: the inactivity test fired. -/
abbrev Status.WATCHDOG : BitVec 7 := 0b0100000#7
/-- R96, bit 6: the event word had `op` = 11. -/
abbrev Status.BADOP : BitVec 7 := 0b1000000#7

/-- R97: the Nexus verdicts. Codes 6 and 7 are reserved and never produced. -/
inductive NexusVerdict where
  | ok
  | len
  | syncPulse
  | syncLen
  | pulse
  | short
deriving DecidableEq, Repr

/-- R97: the codes of `nx_code`. -/
def NexusVerdict.code : NexusVerdict → BitVec 3
  | .ok => 0#3
  | .len => 1#3
  | .syncPulse => 2#3
  | .syncLen => 3#3
  | .pulse => 4#3
  | .short => 5#3

/-- R98: the Alarm verdicts. -/
inductive AlarmVerdict where
  | ok
  | len
  | syncPulse
  | syncLen
deriving DecidableEq, Repr

/-- R98: the codes of `al_code`. -/
def AlarmVerdict.code : AlarmVerdict → BitVec 2
  | .ok => 0#2
  | .len => 1#2
  | .syncPulse => 2#2
  | .syncLen => 3#2

/-- `emit status.<bit>`: set the bit, keep the others; one event may set several (R96). -/
def State.emitStatus (s : State W) (b : BitVec 7) : State W := s.emit fun o => { o with status := o.status ||| b }

/-- `emit frame_len(n)` (R167). -/
def State.emitFrameLen (s : State W) (n : BitVec 9) : State W := s.emit fun o => { o with frameLen := n }

/-- The Nexus fields of a FRAME event (R221). -/
def State.emitNexus (s : State W) (x : NexusFields) : State W := s.emit fun o => { o with nx := x }

/-- The Alarm fields of a FRAME event (R259). -/
def State.emitAlarm (s : State W) (x : AlarmFields) : State W := s.emit fun o => { o with al := x }

end Sys2Proof.Machine
end

