-- ==== Sys2Proof/Machine/Hardware.lean ====
section
/-! DEFINITION. The values this hardware takes for the constants of R9 and the parameters of R10. -/

namespace Sys2Proof

/-- R9: the default of each constant, which this hardware takes; R10: the column "this hardware". Its
W_T is the default 32 of `Word`, `Instr` and `State`. -/
def Config.hardware : Config where
  cap := 256
  syncTh := 3500
  syncMargin := 100
  minFrame := 32
  dzLo := 100
  inact := 20000
  tolLoNum := 3
  tolHiNum := 5
  tolDen := 4
  nxPairs := 36
  nxSyncPulse := 500
  nxSyncLen := 4000
  nxPulse := 480
  nxGap0 := 1000
  nxGap1 := 2000
  alBits := 24
  alSyms := 12
  alSyncPulse := 400
  alSyncLen := 13000
  alTh := 1000
  wdPeriod := 10
  dzExclusive := false
  lenDiv := .exact
  nexusShort := .zeroFill
  alarmPhase := 0

end Sys2Proof
end

