-- ==== Sys2Proof/WellFormed.lean ====
section
/-! DEFINITION. What the spec asks of a term beyond its type: nothing of an event (R91: every 34-bit word is exactly one
of the four), bounds on a field range of the extractors (R135), and the relations among the build-time constants that
the rules use. -/

namespace Sys2Proof

/-- R91, R101, R102: an event's only operand is a W_T-bit `t`, which its type bounds, so every event is well formed. -/
def Instr.wellFormed {W : Nat} : Instr W → Bool
  | .idle _ => true
  | .edge _ => true
  | .tick _ => true
  | .rsvd _ => true

/-- R133, R135: an extraction range lies inside its sequence, `0 ≤ s ≤ f < |b|`. -/
def rangeWellFormed (n s f : Nat) : Bool := decide (s ≤ f) && decide (f < n)

/-- R10: W_T is a positive integer. -/
def timeWidthWellFormed (W : Nat) : Bool := decide (0 < W)

/-- The relations among the constants that the rules state or use: `len` counts to CAP in 9 bits (R32); a completed
frame can be held (R167, R172); INACT > DZ_LO (R164) and INACT > SYNC_TH (R308); the counts `nx_nbits`, `nx_pair` fit
their 6 bits (R95); AL_BITS = 2 x AL_SYMS (R253, R254); the fixed ranges of R100 lie inside `nb` and `ab`, the last ones
included (R135). -/
def Config.wellFormed (c : Config) : Bool :=
  decide (c.cap < 2 ^ 9) && decide (c.minFrame < c.cap) && decide (c.dzLo < c.inact) && decide (c.syncTh < c.inact)
    && decide (c.nxPairs < 2 ^ 6) && decide (c.alBits = 2 * c.alSyms)
    && rangeWellFormed c.nxPairs 28 35 && rangeWellFormed c.alBits 16 23

end Sys2Proof
end

