-- ==== Sys2Proof/Machine/Operands.lean ====
section
/-! DEFINITION. The shared primitives: the interval subtraction (R162, R175), the tolerance comparator (R130), the bit
extractors (R133 to R135), the threshold classifier (R136), the length check (R212), an element of a frame. -/

namespace Sys2Proof.Machine

open Sys2Proof

variable {W : Nat}

/-- R162, R175: `(a - b) mod 2^W_T`, unsigned, the one operation that wraps (R13, R137). -/
def interval (a b : Word W) : Word W := a - b

/-- R130: `tol(v, n)`, the open interval (0.75 n, 1.25 n), compared exactly over the integers (D8). -/
def tol (c : Config) (v n : Nat) : Bool :=
  decide (c.tolDen * v > c.tolLoNum * n) && decide (c.tolDen * v < c.tolHiNum * n)

/-- R133: `U(b, s, f)`, the symbols s to f, shifted in left to right. The block's ranges lie inside `b` (R135) under
every well-formed configuration; a symbol past the end reads as 0 (DESIGN CHOICE, log 17). -/
def U (b : List Bool) (s f : Nat) : Nat :=
  (List.range' s (f + 1 - s)).foldl (fun r i => 2 * r + (b.getD i false).toNat) 0

/-- R134: `S(b, s, f)`: on a leading 1 every bit is complemented, the magnitude computed, incremented and negated. A
symbol past the end reads as 0, after the complement too (DESIGN CHOICE, log 17). -/
def S (b : List Bool) (s f : Nat) : Int :=
  if b.getD s false then -((U (b.map not) s f : Int) + 1) else (U b s f : Int)

/-- R135, D30: the extractor as a general function refuses a range that does not lie in the sequence. -/
def extractUnsigned (b : List Bool) (s f : Nat) : Option Nat :=
  if rangeWellFormed b.length s f then some (U b s f) else none

/-- R135, D30, for the signed extractor. -/
def extractSigned (b : List Bool) (s f : Nat) : Option Int :=
  if rangeWellFormed b.length s f then some (S b s f) else none

/-- R136: `long(x) = (x > AL_TH)`; a tie is short (D12). -/
def long (c : Config) (x : Nat) : Bool := decide (x > c.alTh)

/-- R212: `LenOK(L, k, N)`, over the integers: `L - k = 2N` (EXACT) or `⌊(L - k)/2⌋ = N` (FLOOR). -/
def lenOK (c : Config) (L k N : Nat) : Bool :=
  match c.lenDiv with
  | .exact => decide ((L : Int) - (k : Int) = 2 * (N : Int))
  | .floor => decide (((L : Int) - (k : Int)) / 2 = (N : Int))

/-- `F[i]` as a number. The decoders read only indexes inside F, their length check having passed (log 12). -/
def ival (F : Frame W) (i : Nat) : Nat := (F.getD i 0#W).toNat

end Sys2Proof.Machine
end

