-- ==== Sys2Proof/Machine/Alarm.lean ====
section
/-! DEFINITION. The Alarm decoder and the tri-state classifier (R99, R250 to R259), functions of the frame and the
configuration alone (R257). -/

namespace Sys2Proof.Machine

open Sys2Proof

variable {W : Nat}

/-- R99, R253: a tri-state symbol. -/
inductive TriSymbol where
  /-- `0`: a and c short. -/
  | zero
  /-- `Z`: a short, c long. -/
  | z
  /-- `X`: a long, c short. -/
  | x
  /-- `1`: a and c long. -/
  | one
deriving DecidableEq, Repr

/-- R99, R253: the symbol `{A, C}` of `A = long(a)` and `C = long(c)`. -/
def triOf (a c : Bool) : TriSymbol :=
  match a, c with
  | false, false => .zero
  | false, true => .z
  | true, false => .x
  | true, true => .one

/-- R99: the 2-bit code `{A, C}`. -/
def TriSymbol.code : TriSymbol → BitVec 2
  | .zero => 0b00#2
  | .z => 0b01#2
  | .x => 0b10#2
  | .one => 0b11#2

/-- R253: `tri[0..11]`. The `b` and `d` of a group are read by nothing. -/
def triSymbols (c : Config) (F : Frame W) : List TriSymbol :=
  (List.range c.alSyms).map fun j => triOf (long c (ival F (4 * j))) (long c (ival F (4 * j + 2)))

/-- R254: `ab[0..23]`. -/
def alarmBits (c : Config) (F : Frame W) : List Bool :=
  (List.range c.alBits).map fun k => long c (ival F (2 * k + c.alarmPhase.val))

/-- R99: `{tri[0], …, tri[11]}`, symbol 0 most significant. With AL_SYMS above 12 the last 12 symbols are kept (DESIGN CHOICE,
log 17). -/
def packTri (ts : List TriSymbol) : BitVec 24 :=
  BitVec.ofNat 24 (ts.foldl (fun r t => 4 * r + t.code.toNat) 0)

/-- R255, R100: the Alarm Event. With AL_BITS below 24, which no well-formed configuration has, see log 17. -/
def alarmEvent (c : Config) (F : Frame W) : AlarmFields where
  valid := 1#1
  code := AlarmVerdict.ok.code
  id := BitVec.ofNat 16 (U (alarmBits c F) 0 15)
  cmd := BitVec.ofNat 8 (U (alarmBits c F) 16 23)
  tri := packTri (triSymbols c F)

/-- R250, R252: `ALARM_DECODE(F)`: it stops at the first test that fails (R98). -/
def alarmDecode (c : Config) (F : Frame W) : AlarmFields :=
  let L := F.length
  if lenOK c L 1 c.alBits = false then { code := AlarmVerdict.len.code }
  else if tol c (ival F (L - 2)) c.alSyncPulse = false then { code := AlarmVerdict.syncPulse.code }
  else if tol c (ival F (L - 1)) c.alSyncLen = false then { code := AlarmVerdict.syncLen.code }
  else alarmEvent c F

end Sys2Proof.Machine
end

