-- ==== Sys2Proof/Machine/Nexus.lean ====
section
/-! DEFINITION. The Nexus decoder (R210 to R221), a function of the frame and the configuration alone (R220). -/

namespace Sys2Proof.Machine

open Sys2Proof

variable {W : Nat}

/-- R214: the smallest data pair whose pulse is out of tolerance. -/
def firstBadPulse (c : Config) (F : Frame W) : Option Nat :=
  (List.range c.nxPairs).find? fun i => !tol c (ival F (2 * i)) c.nxPulse

/-- R42, R215: the bit vector `nb` and its fill count `nn`, while one frame is decoded. -/
structure GapBits where
  nb : List Bool
  nn : Nat
deriving DecidableEq, Repr

/-- R215: a gap's bit: 0 near NX_GAP0, 1 near NX_GAP1, none otherwise. -/
def classifyGap (c : Config) (g : Nat) : Option Bool :=
  if tol c g c.nxGap0 then some false
  else if tol c g c.nxGap1 then some true
  else none

/-- R215: a classified gap writes its bit at the next free position; an unclassified one writes nothing. -/
def GapBits.put (a : GapBits) : Option Bool → GapBits
  | some b => { nb := a.nb.set a.nn b, nn := a.nn + 1 }
  | none => a

/-- R215: the gaps in order, into a vector that starts all 0. -/
def classifyGaps (c : Config) (F : Frame W) : GapBits :=
  (List.range c.nxPairs).foldl (fun a i => a.put (classifyGap c (ival F (2 * i + 1))))
    { nb := List.replicate c.nxPairs false, nn := 0 }

/-- R217, R100: the Nexus Reading from the bit vector. No field is checked against a range (R218); positions 9, 12, 13
and 24 to 27 are read by nothing (R219). With NX_PAIRS below 36, which no well-formed configuration has, see log 17. -/
def nexusReading (a : GapBits) : NexusFields where
  valid := 1#1
  code := NexusVerdict.ok.code
  nbits := BitVec.ofNat 6 a.nn
  id := BitVec.ofNat 8 (U a.nb 0 7)
  battery := BitVec.ofNat 1 (U a.nb 8 8)
  channel := BitVec.ofNat 3 (U a.nb 10 11 + 1)
  temp := BitVec.ofInt 16 (S a.nb 14 23)
  humidity := BitVec.ofNat 8 (U a.nb 28 35)

/-- R215 to R217: gap classification, then the short-count choice, then the reading. -/
def nexusGaps (c : Config) (F : Frame W) : NexusFields :=
  let a := classifyGaps c F
  if a.nn < c.nxPairs ∧ c.nexusShort = .reject then
    { code := NexusVerdict.short.code, nbits := BitVec.ofNat 6 a.nn }
  else nexusReading a

/-- R210: `NEXUS_DECODE(F)`: it stops at the first test that fails (R97). -/
def nexusDecode (c : Config) (F : Frame W) : NexusFields :=
  let L := F.length
  if lenOK c L 2 c.nxPairs = false then { code := NexusVerdict.len.code }
  else if tol c (ival F (L - 2)) c.nxSyncPulse = false then { code := NexusVerdict.syncPulse.code }
  else if tol c (ival F (L - 1)) c.nxSyncLen = false then { code := NexusVerdict.syncLen.code }
  else
    match firstBadPulse c F with
    | some i => { code := NexusVerdict.pulse.code, pair := BitVec.ofNat 6 i }
    | none => nexusGaps c F

end Sys2Proof.Machine
end

