-- ==== Sys2Proof/Machine/Capture.lean ====
section
/-! DEFINITION. The capture state machine: EDGE in its numbered steps (R161 to R169), TICK (R175), IDLE (R176) and the
reserved op (R177). Each is written for any W_T (`W`) and any configuration; the meanings take this hardware's, 32 and
`Config.hardware`. -/

namespace Sys2Proof.Machine

open Sys2Proof

variable {W : Nat}

/-- EDGE step 2 (R163): while recording, append, or on a full buffer discard it, stop and report OVERFLOW (D7). The test
`CAP ≤ len` is `len = CAP` in every state a run reaches (I1 of R36); log 8. -/
def edgeAppend (c : Config) (dur : Word W) (s : State W) : State W :=
  if s.recording then
    if c.cap ≤ s.len.toNat then (s.bufClear.setRecording false).emitStatus Status.OVERFLOW
    else s.bufAppend dur
  else s

/-- The dead-zone test of R164: the condition, not its gloss (C1). -/
def deadZone (c : Config) (dur : Word W) : Bool := decide (dur.toNat > c.dzLo) && decide (dur.toNat > c.inact)

/-- EDGE step 3 (R164): in the dead zone, clear, stop recording and report DEADZONE, whether or not a frame was open. -/
def edgeDeadZone (c : Config) (dur : Word W) (s : State W) : State W :=
  if deadZone c dur then (s.bufClear.setRecording false).emitStatus Status.DEADZONE else s

/-- The two decoders on the completed frame (R167, R169): both run and both report. -/
def runDecoders (c : Config) (s : State W) : State W :=
  ((s.emitStatus Status.FRAME).emitNexus (nexusDecode c s.frame)).emitAlarm (alarmDecode c s.frame)

/-- Frame completion (R166, R167): stop recording, report `frame_len`, decode or discard, then clear. -/
def closeFrame (c : Config) (s : State W) : State W :=
  let s1 := (s.setRecording false).emitFrameLen s.len
  (if c.minFrame < s.len.toNat then runDecoders c s1 else s1.emitStatus Status.SHORT).bufClear

/-- The close test of R166, over the integers, one-sided (C13). -/
def closes (c : Config) (dur syncWidth : Word W) : Bool :=
  decide ((dur.toNat : Int) > (syncWidth.toNat : Int) - (c.syncMargin : Int))

/-- EDGE step 4 (R165 to R167), on `recording` as steps 2 and 3 left it; skipped in the dead zone when P_DZ_EXCLUSIVE
(D6). Nothing more happens in step 5 (R168). -/
def edgeSync (c : Config) (dur : Word W) (s : State W) : State W :=
  if dur.toNat > c.syncTh ∧ ¬ (c.dzExclusive = true ∧ deadZone c dur = true) then
    if s.recording then
      if closes c dur s.syncWidth then closeFrame c s else s
    else ((s.setRecording true).setSyncWidth dur).emitStatus Status.OPEN
  else s

/-- EDGE (R161): step 1 (R162), then steps 2 to 4 with the interval. -/
def edge (c : Config) (t : Word W) (s : State W) : State W :=
  let dur := interval t s.lastEdgeTime
  edgeSync c dur (edgeDeadZone c dur (edgeAppend c dur (s.beginRecord.setLastEdgeTime t)))

/-- TICK (R175): it never writes `last_edge_time` or `sync_width` and never appends. -/
def tick (c : Config) (now : Word W) (s : State W) : State W :=
  if (interval now s.lastEdgeTime).toNat > c.inact then
    (s.beginRecord.bufClear.setRecording false).emitStatus Status.WATCHDOG
  else s.beginRecord

/-- IDLE (R176): no state change, an all-zero record. -/
def idle (s : State W) : State W := s.beginRecord

/-- The reserved op (R177): no state change, status BADOP. -/
def reservedOp (s : State W) : State W := s.beginRecord.emitStatus Status.BADOP

/-- The meaning of IDLE (R176) on this hardware; `t` is ignored. -/
def execIdle (_ : Word) (s : State) : Host.Outcome State Fault Refusal := .next (idle s)

/-- The meaning of EDGE (R161) on this hardware. -/
def execEdge (t : Word) (s : State) : Host.Outcome State Fault Refusal := .next (edge Config.hardware t s)

/-- The meaning of TICK (R175) on this hardware. -/
def execTick (now : Word) (s : State) : Host.Outcome State Fault Refusal := .next (tick Config.hardware now s)

/-- The meaning of the reserved op (R177) on this hardware; `t` is ignored. The model does not refuse it (R92 allows
either; log 9). -/
def execRsvd (_ : Word) (s : State) : Host.Outcome State Fault Refusal := .next (reservedOp s)

end Sys2Proof.Machine
end

