-- ==== Sys2Proof/Machine/Dispatch.lean ====
section
/-! DEFINITION. One arm per event (R91). -/

namespace Sys2Proof.Machine

open Sys2Proof

def exec (i : Instr) (s : State) : Host.Outcome State Fault Refusal :=
  match i with
  | .idle t => Sys2Proof.Machine.execIdle t s
  | .edge t => Sys2Proof.Machine.execEdge t s
  | .tick t => Sys2Proof.Machine.execTick t s
  | .rsvd t => Sys2Proof.Machine.execRsvd t s

end Sys2Proof.Machine
end

