-- ==== Sys2Proof/Decode.lean ====
section
/-! DEFINITION. The decoder of an event word, total (R91, R102), and the encoder, from the same table (R90, R91). -/

namespace Sys2Proof

variable {W : Nat}

/-- R102: `op`, the two upper bits, `w[33:32]` on this hardware. -/
def opOf (w : EventWord W) : Op := w.extractLsb' W 2

/-- R102: `t`, the bits below, `w[31:0]` on this hardware, unsigned, neither extended, scaled nor shifted. -/
def timeOf (w : EventWord W) : Word W := w.extractLsb' 0 W

/-- R91: every event word is exactly one of the four events. The last branch is `op` = 11. -/
def decode (w : EventWord W) : Instr W :=
  if opOf w = 0b00#2 then .idle (timeOf w)
  else if opOf w = 0b01#2 then .edge (timeOf w)
  else if opOf w = 0b10#2 then .tick (timeOf w)
  else .rsvd (timeOf w)

/-- R91: the `op` of an event. -/
def Instr.op : Instr W → Op
  | .idle _ => 0b00#2
  | .edge _ => 0b01#2
  | .tick _ => 0b10#2
  | .rsvd _ => 0b11#2

/-- R90: the `t` field of an event. -/
def Instr.time : Instr W → Word W
  | .idle t => t
  | .edge t => t
  | .tick t => t
  | .rsvd t => t

/-- R90: `{op, t}`, `op` in the more significant position (R11). -/
def encode (i : Instr W) : EventWord W := i.op ++ i.time

/-- Why a number is no event word. -/
inductive DecodeError where
  /-- It has a bit above bit 33: the block has only the one 34-bit format (R90, R101). -/
  | widerThanAnEventWord
deriving DecidableEq, Repr

/-- The decoder on any number: a number of more than 34 bits is rejected by name (R101), any other is an event word. -/
def decodeNat (w : Nat) : Except DecodeError Instr :=
  if w < 2 ^ 34 then .ok (decode (BitVec.ofNat 34 w)) else .error .widerThanAnEventWord

/-- The instruction the decoder reads from the low `nbits` bits of `w`, numbered as spec/opcode_table.json numbers them,
with every higher bit 0. The event word is a parallel word with no byte order (R64, R90), so its bit k is bit k here.
DESIGN CHOICE, log 11. -/
def decodeTableWord (nbits w : Nat) : Option Instr :=
  match decodeNat (w % 2 ^ nbits) with
  | .ok i => some i
  | .error _ => none

/-- A row of the opcode table: a word belongs to it when its bits under `mask` are those of `pattern`. -/
structure OpcodeRow where
  pattern : EventWord
  mask : EventWord
deriving DecidableEq, Repr

/-- The four rows of spec/opcode_table.json: IDLE, EDGE, TICK, RSVD. -/
def opcodeTable : List OpcodeRow :=
  [⟨0x000000000#34, 0x300000000#34⟩, ⟨0x100000000#34, 0x300000000#34⟩,
   ⟨0x200000000#34, 0x300000000#34⟩, ⟨0x300000000#34, 0x300000000#34⟩]

/-- Whether an event word belongs to a row. -/
def OpcodeRow.holds (r : OpcodeRow) (w : EventWord) : Bool := decide (w &&& r.mask = r.pattern)

/-- The hexadecimal digit of a number below 16 (R104). -/
def hexDigit (n : Nat) : Char :=
  if n < 10 then Char.ofNat (48 + n) else Char.ofNat (55 + n)

/-- R104: an event word is written in hexadecimal digits, the most significant first: as many as its bits need, 9 on this
hardware. -/
def wordHex (w : EventWord W) : Text :=
  (List.range ((W + 5) / 4)).map fun k => hexDigit (w.toNat / 16 ^ ((W + 5) / 4 - 1 - k) % 16)

end Sys2Proof
end

