-- ==== Sys2Proof/Machine/Port.lean ====
section
/-! DEFINITION. The input port: what it accepts next (R68, R69, R90, R94, R310). -/

namespace Sys2Proof.Machine

open Sys2Proof

variable {W : Nat}

/-- What the port gives one step. -/
inductive Accepted (W : Nat := 32) where
  /-- Nothing is offered: no event is accepted. -/
  | nothing
  /-- RESET is asserted (R94); the state is the one with that item taken off the stream. -/
  | reset (s : State W)
  /-- An event, decoded (R102); the state is the one with it taken off the stream. -/
  | event (i : Instr W) (s : State W)
deriving DecidableEq, Repr

/-- Take the next item of the stream. Of an EDGE and a TICK ready at once, one is accepted now and the other stays next
on the stream; which goes first is the free value `Config.edgeFirst` (R69; log 6). -/
def accept (s : State W) : Accepted W :=
  match s.input with
  | [] => .nothing
  | .word w :: rest => .event (decode w) { s with input := rest }
  | .reset :: rest => .reset { s with input := rest }
  | .both te tt :: rest =>
    if Config.edgeFirst s.races then
      .event (.edge te) { s with input := .word (encode (.tick tt)) :: rest, races := s.races + 1 }
    else
      .event (.tick tt) { s with input := .word (encode (.edge te)) :: rest, races := s.races + 1 }

end Sys2Proof.Machine
end

