-- ==== Sys2Proof/Machine/Step.lean ====
section
/-! DEFINITION. The step: one accepted event (R160), or RESET (R340), or an empty port (log 2). -/

namespace Sys2Proof.Machine

open Sys2Proof

/-- R160: one step per accepted input event. RESET is no event: it gives the reset state and no record (R340). With
nothing offered no event is accepted: no state changes and there is no record (R310; log 2). -/
def step (s : State) : Host.Outcome State Fault Refusal :=
  match accept s with
  | .nothing => .next s.noRecord
  | .reset s' => .next s'.applyReset
  | .event i s' => exec i s'

/-- The event word made of the low `nbits` bits of `w` is offered next, before what already waits at the port; nothing
else changes. The block runs no stored program (R38): delivery at the port is how an event comes to run (log 1). -/
def State.withFetchWord (s : State) (nbits w : Nat) : State :=
  { s with input := .word (BitVec.ofNat 34 (w % 2 ^ nbits)) :: s.input }

end Sys2Proof.Machine
end

