-- ==== Sys2Proof/Machine/Block.lean ====
section
/-! DEFINITION. The whole block as a function of its parameters: every timestamp width W_T (`W`) and every configuration
(R9, R10; 93_implementation_defined.md part B, treatment "parameter"). `exec` and `step` are this hardware's. -/

namespace Sys2Proof.Machine

open Sys2Proof

variable {W : Nat}

/-- The effect of an accepted event (R91, R160). -/
def runEvent (c : Config) (i : Instr W) (s : State W) : State W :=
  match i with
  | .idle _ => idle s
  | .edge t => edge c t s
  | .tick now => tick c now s
  | .rsvd _ => reservedOp s

/-- One step of the block: the accepted event (R160), RESET (R340), or nothing offered (log 2). -/
def blockStep (c : Config) (s : State W) : State W :=
  match accept s with
  | .nothing => s.noRecord
  | .reset s' => s'.applyReset
  | .event i s' => runEvent c i s'

end Sys2Proof.Machine
end

