-- ==== Sys2Proof/Machine/Program.lean ====
section
/-! DEFINITION. Event programs (R104, R105): lines, pseudo-instructions, their expansion to the port's stream, the
`.start` directive, and the text syntax. Notation only (D23): no meaning uses this file. -/

namespace Sys2Proof.Machine

open Sys2Proof

variable {W : Nat}

/-- R104: one written event. A number is what is written, before it is put in a field. -/
inductive Line where
  /-- `EDGE <t>`. -/
  | edge (t : Nat)
  /-- `TICK <t>`. -/
  | tick (t : Nat)
  /-- `IDLE`. -/
  | idle
  /-- `RSVD <t>`. -/
  | rsvd (t : Nat)
  /-- `RESET`: the reset input, not a word. -/
  | reset
  /-- `IVS <d1>, <d2>, …` of R105; `IV <d>` is the list of one. -/
  | ivs (ds : List Nat)
  /-- `WAIT <d>` of R105. -/
  | wait (d : Nat)
deriving DecidableEq, Repr

/-- R104, R105: a program, first line first. -/
inductive Prog where
  | done
  | line (l : Line) (rest : Prog)
  /-- `REP <n> { <lines> }`. -/
  | rep (n : Nat) (body rest : Prog)
deriving DecidableEq, Repr

/-- A written time names a `t` field only if it is a W_T-bit number (R90, R102). -/
def Line.wellFormed (l : Line) (W : Nat := 32) : Bool :=
  match l with
  | .edge t => decide (t < 2 ^ W)
  | .tick t => decide (t < 2 ^ W)
  | .idle => true
  | .rsvd t => decide (t < 2 ^ W)
  | .reset => true
  | .ivs _ => true
  | .wait _ => true

def Prog.wellFormed (p : Prog) (W : Nat := 32) : Bool :=
  match p with
  | .done => true
  | .line l rest => l.wellFormed W && rest.wellFormed W
  | .rep _ body rest => body.wellFormed W && rest.wellFormed W

/-- `IVS`: each interval is added to the time of the edge before it, modulo 2^W_T (R105). -/
def expandIntervals : List Nat → Word W → List (Input W) × Word W
  | [], T => ([], T)
  | d :: ds, T =>
    let t := T + BitVec.ofNat W d
    let r := expandIntervals ds t
    (.word (encode (.edge t)) :: r.1, r.2)

/-- R104, R105: what a line puts on the port, and T after it: the time of the most recent EDGE. `TICK` and `WAIT` do not
change T. -/
def Line.expand : Line → Word W → List (Input W) × Word W
  | .edge t, _ => ([.word (encode (.edge (BitVec.ofNat W t)))], BitVec.ofNat W t)
  | .tick t, T => ([.word (encode (.tick (BitVec.ofNat W t)))], T)
  | .idle, T => ([.word (encode (.idle 0#W))], T)
  | .rsvd t, T => ([.word (encode (.rsvd (BitVec.ofNat W t)))], T)
  | .reset, T => ([.reset], T)
  | .ivs ds, T => expandIntervals ds T
  | .wait d, T => ([.word (encode (.tick (T + BitVec.ofNat W d)))], T)

/-- `REP <n>`: the lines repeated n times, each copy expanded from the T the one before left (R105). -/
def repeatExpand (f : Word W → List (Input W) × Word W) : Nat → Word W → List (Input W) × Word W
  | 0, T => ([], T)
  | n + 1, T =>
    let a := f T
    let b := repeatExpand f n a.2
    (a.1 ++ b.1, b.2)

def Prog.expand : Prog → Word W → List (Input W) × Word W
  | .done, T => ([], T)
  | .line l rest, T =>
    let a := l.expand T
    let b := rest.expand a.2
    (a.1 ++ b.1, b.2)
  | .rep n body rest, T =>
    let a := repeatExpand body.expand n T
    let b := rest.expand a.2
    (a.1 ++ b.1, b.2)

/-- The `.start` directive of R104. A field it does not give takes its reset value (R341). -/
structure Start (W : Nat := 32) where
  recording : Option Bool := none
  len : Option (BitVec 9) := none
  syncWidth : Option (Word W) := none
  lastEdgeTime : Option (Word W) := none
deriving DecidableEq, Repr

/-- The stated start state. It states no buffer entries, so none is listed and each reads as a free value (log 5). -/
def Start.state (d : Start W) : State W :=
  { State.resetWith (d.lastEdgeTime.getD (Config.t0Draw 0)) with
    recording := d.recording.getD false
    len := d.len.getD 0#9
    syncWidth := d.syncWidth.getD sentinel }

/-- A program ready to run: its start state, with its expansion waiting at the port. T before the first EDGE line is
the start value of `last_edge_time` (R105). -/
def Start.load (d : Start W) (p : Prog) : State W :=
  { d.state with input := (p.expand d.state.lastEdgeTime).1 }

/-! ### The text syntax (R104, R105; log 14) -/

inductive Token where
  | word (cs : Text)
  | num (n : Nat)
  | comma
  | eq
  | lbrace
  | rbrace
  | newline
deriving DecidableEq, Repr

/-- The value of a decimal digit. -/
def decDigit (c : Char) : Option Nat :=
  if 48 ≤ c.toNat ∧ c.toNat ≤ 57 then some (c.toNat - 48) else none

/-- The value of a hexadecimal digit, of either case. -/
def hexValue (c : Char) : Option Nat :=
  if 48 ≤ c.toNat ∧ c.toNat ≤ 57 then some (c.toNat - 48)
  else if 65 ≤ c.toNat ∧ c.toNat ≤ 70 then some (c.toNat - 55)
  else if 97 ≤ c.toNat ∧ c.toNat ≤ 102 then some (c.toNat - 87)
  else none

/-- Digits to a number in a base; none at a character that is no digit. -/
def digitsValue (digit : Char → Option Nat) (base : Nat) : Text → Nat → Option Nat
  | [], acc => some acc
  | c :: cs, acc =>
    match digit c with
    | some d => digitsValue digit base cs (base * acc + d)
    | none => none

/-- R104: a number is decimal, or hexadecimal with `0x`. -/
def parseNumber : Text → Option Nat
  | [] => none
  | '0' :: 'x' :: c :: cs => digitsValue hexValue 16 (c :: cs) 0
  | c :: cs => digitsValue decDigit 10 (c :: cs) 0

/-- A finished run of letters, at the front of the tokens. -/
def flushRun (run : Text) (ts : List Token) : List Token :=
  if run.isEmpty then ts
  else
    match parseNumber run.reverse with
    | some n => .num n :: ts
    | none => .word run.reverse :: ts

/-- The tokens of a text; `;` starts a comment to the end of the line (R104). `run` holds the letters read so far,
last first. The characters of code 123 and 125 are the braces. -/
def lex : Text → Bool → Text → List Token
  | [], _, run => flushRun run []
  | c :: cs, comment, run =>
    if c.toNat = 10 then flushRun run (.newline :: lex cs false [])
    else if comment then lex cs true run
    else if c = ';' then flushRun run (lex cs true [])
    else if c = ' ' ∨ c.toNat = 9 ∨ c.toNat = 13 then flushRun run (lex cs false [])
    else if c = ',' then flushRun run (.comma :: lex cs false [])
    else if c = '=' then flushRun run (.eq :: lex cs false [])
    else if c.toNat = 123 then flushRun run (.lbrace :: lex cs false [])
    else if c.toNat = 125 then flushRun run (.rbrace :: lex cs false [])
    else lex cs false (c :: run)

/-- The numbers of an `IVS` after the first. -/
def parseMore : List Token → List Nat × List Token
  | .comma :: .num d :: ts =>
    let r := parseMore ts
    (d :: r.1, r.2)
  | ts => ([], ts)

/-- One event line: its mnemonic and operands. -/
def parseLine : List Token → Option (Line × List Token)
  | .word ['E', 'D', 'G', 'E'] :: .num t :: ts => some (.edge t, ts)
  | .word ['T', 'I', 'C', 'K'] :: .num t :: ts => some (.tick t, ts)
  | .word ['I', 'D', 'L', 'E'] :: ts => some (.idle, ts)
  | .word ['R', 'S', 'V', 'D'] :: .num t :: ts => some (.rsvd t, ts)
  | .word ['R', 'E', 'S', 'E', 'T'] :: ts => some (.reset, ts)
  | .word ['I', 'V'] :: .num d :: ts => some (.ivs [d], ts)
  | .word ['I', 'V', 'S'] :: .num d :: ts => some (.ivs (d :: (parseMore ts).1), (parseMore ts).2)
  | .word ['W', 'A', 'I', 'T'] :: .num d :: ts => some (.wait d, ts)
  | _ => none

/-- A line ends at the end of its text line, before a closing brace, or with the program. -/
def lineEnds : List Token → Bool
  | [] => true
  | .newline :: _ => true
  | .rbrace :: _ => true
  | _ => false

/-- Lines to the end or to a closing brace, which stays. `fuel` bounds the number of tokens looked at. -/
def parseProg : Nat → List Token → Option (Prog × List Token)
  | 0, _ => none
  | fuel + 1, ts =>
    match ts with
    | [] => some (.done, [])
    | .rbrace :: rest => some (.done, .rbrace :: rest)
    | .newline :: rest => parseProg fuel rest
    | .word ['R', 'E', 'P'] :: .num n :: .lbrace :: rest =>
      match parseProg fuel rest with
      | some (body, .rbrace :: rest') => (parseProg fuel rest').map fun r => (.rep n body r.1, r.2)
      | _ => none
    | _ =>
      match parseLine ts with
      | some (l, rest) => if lineEnds rest then (parseProg fuel rest).map fun r => (.line l r.1, r.2) else none
      | none => none

/-- The fields of a `.start` directive, to the end of its line. Of a field given more than once the last value counts
(DESIGN CHOICE, log 14). -/
def parseFields : List Token → Start W → Option (Start W × List Token)
  | .word ['r', 'e', 'c', 'o', 'r', 'd', 'i', 'n', 'g'] :: .eq :: .num n :: ts, d =>
    if n < 2 then parseFields ts { d with recording := some (n == 1) } else none
  | .word ['l', 'e', 'n'] :: .eq :: .num n :: ts, d =>
    if n ≤ 256 then parseFields ts { d with len := some (BitVec.ofNat 9 n) } else none
  | .word ['s', 'y', 'n', 'c', '_', 'w', 'i', 'd', 't', 'h'] :: .eq :: .num n :: ts, d =>
    if n < 2 ^ W then parseFields ts { d with syncWidth := some (BitVec.ofNat W n) } else none
  | .word ['l', 'a', 's', 't', '_', 'e', 'd', 'g', 'e', '_', 't', 'i', 'm', 'e'] :: .eq :: .num n :: ts, d =>
    if n < 2 ^ W then parseFields ts { d with lastEdgeTime := some (BitVec.ofNat W n) } else none
  | ts, d => if lineEnds ts then some (d, ts) else none

/-- The directive of R104, which a program may begin with. -/
def parseStart : List Token → Option (Start W × List Token)
  | .newline :: ts => parseStart ts
  | .word ['.', 's', 't', 'a', 'r', 't'] :: ts => parseFields ts {}
  | ts => some ({}, ts)

/-- R104, R105: a text read as a start state and a program; none where it is not of the syntax or a time is no W_T-bit
number. -/
def parseProgram (text : Text) (W : Nat := 32) : Option (Start W × Prog) :=
  let ts := lex text false []
  match parseStart ts with
  | some (d, rest) =>
    match parseProg (rest.length + 1) rest with
    | some (p, []) => if p.wellFormed W then some (d, p) else none
    | _ => none
  | none => none

end Sys2Proof.Machine
end

