-- ==== Sys2Proof/Machine/Publisher.lean ====
section
/-! DEFINITION. The boundary to the publisher adapter (R316, R317): topic and payload as functions of an output record.
The adapter is no part of the block; delivery is fire-and-forget and never comes back to it (R318). Log 15. -/

namespace Sys2Proof.Machine

open Sys2Proof

/-- R316: unsigned decimal with no leading zeros. -/
def decimal (n : Nat) : Text := Nat.toDigits 10 n

/-- R316: the topic and the payload's values for a Nexus Reading. -/
structure NexusMessage where
  topic : Text
  battery : Nat
  /-- `nx_temp / 10` in degrees, exact (D27). -/
  temperature : Rat
  humidity : Nat
deriving DecidableEq, Repr

/-- R317: the topic and the payload's values for an Alarm Event. -/
structure AlarmMessage where
  topic : Text
  tri : Text
  cmd : Nat
deriving DecidableEq, Repr

/-- R316: `temp/<id>/<channel>`; none where the record holds no Nexus Reading. -/
def nexusMessage (o : OutputRecord) : Option NexusMessage :=
  if o.nx.valid = 1#1 then
    some {
      topic := ['t', 'e', 'm', 'p', '/'] ++ decimal o.nx.id.toNat ++ ['/'] ++ decimal o.nx.channel.toNat
      battery := o.nx.battery.toNat
      temperature := mkRat o.nx.temp.toInt 10
      humidity := o.nx.humidity.toNat }
  else none

/-- R99: the character of a 2-bit symbol code. -/
def triChar (code : Nat) : Char :=
  if code = 0 then '0' else if code = 1 then 'Z' else if code = 2 then 'X' else '1'

/-- R99, R317: the 12 symbols of `al_tri`, symbol 0 first; symbol j is in bits `[23 - 2j : 22 - 2j]`. -/
def triText (tri : BitVec 24) : Text :=
  (List.range 12).map fun j => triChar (tri.extractLsb' (22 - 2 * j) 2).toNat

/-- R317: `alarm/<id>`; none where the record holds no Alarm Event. -/
def alarmMessage (o : OutputRecord) : Option AlarmMessage :=
  if o.al.valid = 1#1 then
    some {
      topic := ['a', 'l', 'a', 'r', 'm', '/'] ++ decimal o.al.id.toNat
      tri := triText o.al.tri
      cmd := o.al.cmd.toNat }
  else none

end Sys2Proof.Machine
end

