-- ==== Sys2Proof/Safety.lean ====
section
/-! DEFINITION. What counts as a safe run, in the terms the claims use: the invariants of R36 and R37, the torn
combination of R345, what is observable of a state (R33, R34, R39), and runs that never stop (R300). -/

namespace Sys2Proof.Machine

open Sys2Proof

variable {W : Nat}

/-- R162, R175: `d` microseconds from time `b` to time `a`, modulo 2^W_T. -/
def Elapsed (a b : Word W) (d : Nat) : Prop := ((a.toNat : Int) - (b.toNat : Int)) % 2 ^ W = (d : Int)

/-- I1 of R36: `len ≤ CAP`. -/
abbrev State.I1 (s : State W) : Prop := s.len.toNat ≤ Config.hardware.cap

/-- I2 of R36: `recording = 0 ⇒ len = 0`. -/
abbrev State.I2 (s : State W) : Prop := s.recording = false → s.len = 0#9

/-- I3 of R37: `recording = 1 ⇒ sync_width > SYNC_TH`. -/
abbrev State.I3 (s : State W) : Prop := s.recording = true → Config.hardware.syncTh < s.syncWidth.toNat

/-- I4 of R37: every `buf[i]` with `i < len` is at most INACT. -/
abbrev State.I4 (s : State W) : Prop := ∀ i, i < s.len.toNat → (s.bufRead i).toNat ≤ Config.hardware.inact

/-- The buffer's cells in canonical form, inside the index range 0 to CAP - 1 (R60), with every entry below `len`
written, so that no free value is ever read (R33, R63). -/
structure State.BufOK (s : State W) : Prop where
  wf : Memory.wf s.buf = true
  range : ∀ cell, cell ∈ s.buf → cell.1 < Config.hardware.cap
  written : ∀ i, i < s.len.toNat → (s.buf.read i).isSome = true

/-- Every state that a run from RESET reaches meets all of these. -/
structure State.Inv (s : State W) : Prop where
  i1 : s.I1
  i2 : s.I2
  i3 : s.I3
  i4 : s.I4
  buf : s.BufOK

/-- R345, property 8: `recording = 0` with a non-empty buffer. -/
def State.torn (s : State W) : Bool := !s.recording && decide (s.len ≠ 0#9)

/-- The status bits the last step reported; none reported where there is no record. -/
def State.status (s : State W) : BitVec 7 :=
  match s.out with
  | some o => o.status
  | none => 0#7

/-- What a later event can tell of two states (R33, R34, R39): `sync_width` only while recording, entries only below
`len`; the output record of the last step is not among it (R40). -/
structure State.ObsEq (a b : State W) : Prop where
  recording : a.recording = b.recording
  len : a.len = b.len
  entries : ∀ i, i < a.len.toNat → a.bufRead i = b.bufRead i
  syncWidth : a.recording = true → a.syncWidth = b.syncWidth
  lastEdgeTime : a.lastEdgeTime = b.lastEdgeTime
  input : a.input = b.input
  resets : a.resets = b.resets
  races : a.races = b.races

/-- The data pairs' gap bits as a sequence: a gap in (750, 1250) is a 0, one in (1500, 2500) a 1, any other gives no bit
(R132, R215). -/
def gapBitsOf (F : Frame W) : List Bool :=
  (List.range 36).filterMap fun k =>
    if 750 < ival F (2 * k + 1) ∧ ival F (2 * k + 1) < 1250 then some false
    else if 1500 < ival F (2 * k + 1) ∧ ival F (2 * k + 1) < 2500 then some true
    else none

/-- The 36 positions of `nb`: the bits of the classified gaps, then zeros (R215, R216). -/
def nexusBitsOf (F : Frame W) : List Bool := gapBitsOf F ++ List.replicate (36 - (gapBitsOf F).length) false

/-- A frame whose length, sync pair and 36 pulses the Nexus decoder accepts (R211 to R214), by the windows of R132. -/
structure NexusShaped (F : Frame W) : Prop where
  length : F.length = 74
  syncPulse : 375 < ival F 72 ∧ ival F 72 < 625
  syncLen : 3000 < ival F 73 ∧ ival F 73 < 5000
  pulses : ∀ i, i < 36 → 360 < ival F (2 * i) ∧ ival F (2 * i) < 600

/-- A frame whose length and sync pair the Alarm decoder accepts (R251, R252), by the windows of R132. -/
structure AlarmShaped (F : Frame W) : Prop where
  length : F.length = 49
  syncPulse : 300 < ival F 47 ∧ ival F 47 < 500
  syncLen : 9750 < ival F 48 ∧ ival F 48 < 16250

/-- `NXF(bits)` of 95_test_vectors.md §2.6: pulse 480 and gap 1000 or 2000 for each bit, then 500 and 4000. -/
def nexusFrameOf (bits : List Bool) : Frame :=
  (bits.flatMap fun b => [480#32, if b then 2000#32 else 1000#32]) ++ [500#32, 4000#32]

/-- R300: a run that goes on for any number of steps. -/
def NeverStops (s : State) : Prop := ∀ n, ∃ s', Sys2Proof.core.run n s = .next s'

end Sys2Proof.Machine
end

