-- ==== Sys2Proof/Certificates/Slice0/Obligations.lean ====
section
/-! DEFINITION. The statements for the provers, from the numbered rules of spec/. Each docstring names the rules, or
says that the statement rests on an inference of the spec's or on a choice of the model's. -/

open Sys2Proof Sys2Proof.Machine

/-! ### Encoding (R90 to R102) -/

/-- Words written out from R90 and R91, and from the vectors of 95_test_vectors.md, decode to the events they stand for. -/
def Obligations.EventWordsOfTheSpec : Prop :=
  decode 0x000000000#34 = .idle 0#32 ∧ decode 0x1000001F4#34 = .edge 500#32 ∧
  decode 0x200006D38#34 = .tick 27960#32 ∧ decode 0x300000000#34 = .rsvd 0#32 ∧
  decode 0x0FFFFFFFF#34 = .idle 0xFFFFFFFF#32 ∧ decode 0x3FFFFFFFF#34 = .rsvd 0xFFFFFFFF#32

/-- R91, R102: `op` = w[33:32] selects the event, `t` = w[31:0] is its unsigned operand. -/
def Obligations.OpFieldSelectsTheEvent : Prop :=
  ∀ w : EventWord,
    (w.toNat / 2 ^ 32 = 0 → decode w = .idle (BitVec.ofNat 32 (w.toNat % 2 ^ 32))) ∧
    (w.toNat / 2 ^ 32 = 1 → decode w = .edge (BitVec.ofNat 32 (w.toNat % 2 ^ 32))) ∧
    (w.toNat / 2 ^ 32 = 2 → decode w = .tick (BitVec.ofNat 32 (w.toNat % 2 ^ 32))) ∧
    (w.toNat / 2 ^ 32 = 3 → decode w = .rsvd (BitVec.ofNat 32 (w.toNat % 2 ^ 32))) ∧
    w.toNat / 2 ^ 32 < 4

/-- Decode and encode agree, for every well-formed event and every `t` (R90, R91). -/
def Obligations.DecodeEncodeAllEvents : Prop :=
  ∀ i : Instr, i.wellFormed = true → decode (encode i) = i

/-- Every 34-bit word is the encoding of what it decodes to, the ignored `t` of IDLE and of the reserved op included. -/
def Obligations.EncodeDecodeAllWords : Prop :=
  ∀ w : EventWord, encode (decode w) = w

/-- Every 34-bit word belongs to exactly one row of spec/opcode_table.json, the row of the event it decodes to. -/
def Obligations.OneOpcodeRowPerWord : Prop :=
  ∀ (w : EventWord) (k : Nat) (row : OpcodeRow), opcodeTable[k]? = some row →
    (row.holds w = true ↔ (decode w).op.toNat = k)

/-- A number of more than 34 bits is no event word and is rejected; any other is read as one (R90, R101; the numbering
is the model's, log 11). -/
def Obligations.TableWordsDecodeOrAreRejected : Prop :=
  ∀ nbits w : Nat,
    (w % 2 ^ nbits < 2 ^ 34 → decodeTableWord nbits w = some (decode (BitVec.ofNat 34 (w % 2 ^ nbits)))) ∧
    (2 ^ 34 ≤ w % 2 ^ nbits → decodeTableWord nbits w = none)

/-! ### The step and the port (R160, R68, R69, R340) -/

/-- R160, R102: the word next at the port is decoded and its event runs, on the state with it taken off the stream. -/
def Obligations.StepRunsTheDecodedEvent : Prop :=
  ∀ (s : State) (w : EventWord) (rest : List Input), s.input = .word w :: rest →
    step s = exec (decode w) { s with input := rest }

/-- A word offered by `withFetchWord` is the next event, and what already waited at the port is left (the model's
stream, log 1). -/
def Obligations.OfferedWordRunsNext : Prop :=
  ∀ (s : State) (nbits w : Nat),
    step (s.withFetchWord nbits w) = exec (decode (BitVec.ofNat 34 (w % 2 ^ nbits))) s

/-- RESET gives the reset values whatever the state was, no output record, and accepts no event word (R340, R341). That
what waits at the port stays there is the model's choice (log 10). Of the buffer's entries and of `last_edge_time`, which
the rules leave unspecified, it says nothing. -/
def Obligations.ResetGivesTheResetState : Prop :=
  ∀ (s : State) (rest : List Input), s.input = .reset :: rest →
    ∃ s', step s = .next s' ∧ s'.recording = false ∧ s'.len = 0#9 ∧ s'.syncWidth = 0xFFFFFFFF#32 ∧
      s'.out = none ∧ s'.input = rest

/-- R69: of an EDGE and a TICK ready at once either may go first, and the other is the next event accepted; this holds
whichever the free order is (log 6). -/
def Obligations.SimultaneousPairRunsInEitherOrder : Prop :=
  ∀ (s : State) (te tt : Word) (rest : List Input), s.input = .both te tt :: rest →
    (∃ w, decode w = .tick tt ∧
      step s = exec (.edge te) { s with input := .word w :: rest, races := s.races + 1 }) ∨
    (∃ w, decode w = .edge te ∧
      step s = exec (.tick tt) { s with input := .word w :: rest, races := s.races + 1 })

/-- With nothing offered no event is accepted and nothing but the record changes (the model's choice, log 2). -/
def Obligations.EmptyPortAcceptsNothing : Prop :=
  ∀ s : State, s.input = [] → step s = .next { s with out := none }

/-- No event is ever refused, faults or halts the block (R160, R300). That a run goes on for any number of steps rests at
an empty port on the model's choice that a step with nothing offered counts as a step (log 2). -/
def Obligations.NoEventEverStopsTheBlock : Prop :=
  (∀ (i : Instr) (s : State), ∃ s', exec i s = .next s') ∧ (∀ s : State, NeverStops s)

/-! ### IDLE, the reserved op, TICK (R175 to R177) -/

/-- R176: `op` = 00 is IDLE, which changes no state whatever its `t`; its output record is all zero. -/
def Obligations.IdleLeavesTheStateUnchanged : Prop :=
  (∀ w : EventWord, w.toNat / 2 ^ 32 = 0 → decode w = .idle (BitVec.ofNat 32 w.toNat)) ∧
  ∀ (t : Word) (s : State), exec (.idle t) s = .next { s with out := some {} }

/-- R177: `op` = 11, the reserved op, changes no state whatever its `t` and reports BADOP (bit 6) alone. -/
def Obligations.ReservedOpOnlyReportsBadOp : Prop :=
  (∀ w : EventWord, w.toNat / 2 ^ 32 = 3 → decode w = .rsvd (BitVec.ofNat 32 w.toNat)) ∧
  ∀ (t : Word) (s : State), exec (.rsvd t) s = .next { s with out := some { status := 0b1000000#7 } }

/-- R175: `op` = 10 is TICK, which acts exactly when more than 20000 us have passed since the last edge: it then clears
the buffer, stops recording and reports WATCHDOG (bit 5), whether or not a frame was open; nothing else changes. -/
def Obligations.TickDiscardsAStaleCapture : Prop :=
  (∀ w : EventWord, w.toNat / 2 ^ 32 = 2 → decode w = .tick (BitVec.ofNat 32 w.toNat)) ∧
  ∀ (now : Word) (s : State) (el : Nat), Elapsed now s.lastEdgeTime el →
    (el ≤ 20000 → exec (.tick now) s = .next { s with out := some {} }) ∧
    (20000 < el → exec (.tick now) s =
      .next { s with recording := false, len := 0#9, out := some { status := 0b0100000#7 } })

/-- The frame of IDLE, TICK and the reserved op: no entry of the buffer, neither `sync_width` nor `last_edge_time`, and
nothing at the port changes; only TICK changes `recording` and `len`. -/
def Obligations.OnlyEdgeWritesTheCaptureRegisters : Prop :=
  ∀ (t : Word) (s s' : State),
    ((exec (.idle t) s = .next s' ∨ exec (.tick t) s = .next s' ∨ exec (.rsvd t) s = .next s') →
      (∀ k, s'.bufRead k = s.bufRead k) ∧ s'.syncWidth = s.syncWidth ∧ s'.lastEdgeTime = s.lastEdgeTime ∧
      s'.input = s.input ∧ s'.resets = s.resets ∧ s'.races = s.races) ∧
    ((exec (.idle t) s = .next s' ∨ exec (.rsvd t) s = .next s') → s'.recording = s.recording ∧ s'.len = s.len)

/-! ### EDGE (R161 to R168): its result in every case -/

/-- R162: every EDGE runs its later steps with the interval `(t - last_edge_time) mod 2^32`, on the state that already
holds t as `last_edge_time`, and leaves `last_edge_time` = t whatever they do. -/
def Obligations.EdgeMeasuresThenLatchesItsTime : Prop :=
  ∀ (t : Word) (s : State),
    (∃ s', exec (.edge t) s = .next s' ∧ s'.lastEdgeTime = t) ∧
    ∃ dur : Word, Elapsed t s.lastEdgeTime dur.toNat ∧
      exec (.edge t) s = .next (edgeSync Config.hardware dur (edgeDeadZone Config.hardware dur
        (edgeAppend Config.hardware dur { s with lastEdgeTime := t, out := some {} })))

/-- R163, R168: while not recording, an interval of at most 3500 us changes only `last_edge_time`. -/
def Obligations.EdgeOutsideAFrame : Prop :=
  ∀ (t : Word) (s : State) (d : Nat), Elapsed t s.lastEdgeTime d → s.recording = false → d ≤ 3500 →
    exec (.edge t) s = .next { s with lastEdgeTime := t, out := some {} }

/-- R165: while not recording, an interval above 3500 us (and not in the dead zone) opens a frame: OPEN (bit 0), with
`sync_width` the interval, which is not stored as data. -/
def Obligations.EdgeOpensAFrame : Prop :=
  ∀ (t : Word) (s : State) (d : Nat), Elapsed t s.lastEdgeTime d → s.recording = false →
    3500 < d → d ≤ 20000 →
    exec (.edge t) s = .next { s with
      recording := true, syncWidth := BitVec.ofNat 32 d, lastEdgeTime := t, out := some { status := 0b0000001#7 } }

/-- R163 to R165: an interval above 20000 us discards what was held, whether or not a frame was open, and opens a frame
with that interval: DEADZONE and OPEN (bits 4 and 0), and OVERFLOW (bit 3) too where the buffer was full. While
recording with room, step 2 has stored it in the entry at `len` first. (Above 256 entries, which no run reaches, the third
clause is the model's choice, log 8.) -/
def Obligations.EdgeInTheDeadZoneReopens : Prop :=
  ∀ (t : Word) (s : State) (d : Nat), Elapsed t s.lastEdgeTime d → 20000 < d →
    (s.recording = false → exec (.edge t) s = .next { s with
      recording := true, len := 0#9, syncWidth := BitVec.ofNat 32 d, lastEdgeTime := t,
      out := some { status := 0b0010001#7 } }) ∧
    (s.recording = true → s.len.toNat < 256 → exec (.edge t) s = .next { s with
      recording := true, len := 0#9, buf := s.buf.write s.len.toNat (BitVec.ofNat 32 d), syncWidth := BitVec.ofNat 32 d,
      lastEdgeTime := t, out := some { status := 0b0010001#7 } }) ∧
    (s.recording = true → 256 ≤ s.len.toNat → exec (.edge t) s = .next { s with
      recording := true, len := 0#9, syncWidth := BitVec.ofNat 32 d, lastEdgeTime := t, out := some { status := 0b0011001#7 } })

/-- R163, R166, R168: while recording with room, an interval that is no sync candidate (at most 3500 us), or a candidate
that fails the close test (at most `sync_width` - 100), is stored at `len` and the frame stays open. -/
def Obligations.EdgeStoresAnInterval : Prop :=
  ∀ (t : Word) (s : State) (d : Nat), Elapsed t s.lastEdgeTime d → s.recording = true → s.len.toNat < 256 →
    d ≤ 20000 → (d ≤ 3500 ∨ (d : Int) ≤ (s.syncWidth.toNat : Int) - 100) →
    exec (.edge t) s = .next { s with
      len := s.len + 1#9, buf := s.buf.write s.len.toNat (BitVec.ofNat 32 d), lastEdgeTime := t, out := some {} }

/-- R163, R165: the 257th interval: OVERFLOW (bit 3), the buffer discarded, the interval not stored; above 3500 us the
same EDGE opens a new frame with it. (Above 256 entries, which no run reaches, the model does the same, log 8.) -/
def Obligations.EdgeOverflowDiscards : Prop :=
  ∀ (t : Word) (s : State) (d : Nat), Elapsed t s.lastEdgeTime d → s.recording = true → 256 ≤ s.len.toNat →
    (d ≤ 3500 → exec (.edge t) s = .next { s with
      recording := false, len := 0#9, lastEdgeTime := t, out := some { status := 0b0001000#7 } }) ∧
    (3500 < d → d ≤ 20000 → exec (.edge t) s = .next { s with
      recording := true, len := 0#9, syncWidth := BitVec.ofNat 32 d, lastEdgeTime := t, out := some { status := 0b0001001#7 } })

/-- R166, R167: a closing sync with at most 32 intervals held, itself included: SHORT (bit 2) and `frame_len`; the
contents are discarded undecoded. -/
def Obligations.EdgeClosesAShortFrame : Prop :=
  ∀ (t : Word) (s : State) (d : Nat), Elapsed t s.lastEdgeTime d → s.recording = true → s.len.toNat + 1 ≤ 32 →
    3500 < d → d ≤ 20000 → (s.syncWidth.toNat : Int) - 100 < (d : Int) →
    exec (.edge t) s = .next { s with
      recording := false, len := 0#9, buf := s.buf.write s.len.toNat (BitVec.ofNat 32 d), lastEdgeTime := t,
      out := some { status := 0b0000100#7, frameLen := s.len + 1#9 } }

/-- R166, R167, R169: a closing sync with 33 to 256 intervals held, itself included: FRAME (bit 1), `frame_len`, and
both decoders' fields for the frame of the held intervals with the closing one last; then the buffer is cleared. -/
def Obligations.EdgeCompletesAFrame : Prop :=
  ∀ (t : Word) (s : State) (d : Nat), Elapsed t s.lastEdgeTime d → s.recording = true →
    32 < s.len.toNat + 1 → s.len.toNat < 256 →
    3500 < d → d ≤ 20000 → (s.syncWidth.toNat : Int) - 100 < (d : Int) →
    exec (.edge t) s = .next { s with
      recording := false, len := 0#9, buf := s.buf.write s.len.toNat (BitVec.ofNat 32 d), lastEdgeTime := t,
      out := some {
        status := 0b0000010#7, frameLen := s.len + 1#9,
        nx := nexusDecode Config.hardware (s.frame ++ [BitVec.ofNat 32 d]),
        al := alarmDecode Config.hardware (s.frame ++ [BitVec.ofNat 32 d]) } }

/-- The frame of EDGE. The only entry it can change is the one at `len`, and that one only while recording with room; it
changes `sync_width` only where it opens a frame; nothing at the port changes. -/
def Obligations.EdgeChangesOneEntryAtMost : Prop :=
  ∀ (t : Word) (s s' : State), exec (.edge t) s = .next s' →
    (∀ k, ¬ (s.recording = true ∧ s.len.toNat < 256 ∧ k = s.len.toNat) → s'.bufRead k = s.bufRead k) ∧
    (s'.status &&& 0b0000001#7 = 0#7 → s'.syncWidth = s.syncWidth) ∧
    s'.lastEdgeTime = t ∧ s'.input = s.input ∧ s'.resets = s.resets ∧ s'.races = s.races

/-- The status sets an EDGE can report, an inference the spec marks as its own in 60_exceptions.md §2: with
P_DZ_EXCLUSIVE = false exactly none, OPEN, OVERFLOW, OVERFLOW+OPEN, DEADZONE+OPEN, OVERFLOW+DEADZONE+OPEN, FRAME, SHORT;
with true, DEADZONE and OVERFLOW+DEADZONE replace the two that combine DEADZONE with OPEN. -/
def Obligations.EdgeStatusSets : Prop :=
  (∀ b : BitVec 7, (∃ (t : Word) (s : State), (edge Config.hardware t s).status = b) ↔
    b ∈ [0#7, 0b0000001#7, 0b0001000#7, 0b0001001#7, 0b0010001#7, 0b0011001#7, 0b0000010#7, 0b0000100#7]) ∧
  (∀ b : BitVec 7, (∃ (t : Word) (s : State), (edge { Config.hardware with dzExclusive := true } t s).status = b) ↔
    b ∈ [0#7, 0b0000001#7, 0b0001000#7, 0b0001001#7, 0b0010000#7, 0b0011000#7, 0b0000010#7, 0b0000100#7])

/-- The parameter P_DZ_EXCLUSIVE = true (41_capture.md §2): a dead-zone EDGE discards and opens nothing. -/
def Obligations.ExclusiveDeadZoneOpensNothing : Prop :=
  ∀ (t : Word) (s : State) (d : Nat), Elapsed t s.lastEdgeTime d → 20000 < d →
    (edge { Config.hardware with dzExclusive := true } t s).recording = false ∧
    (edge { Config.hardware with dzExclusive := true } t s).len = 0#9 ∧
    (edge { Config.hardware with dzExclusive := true } t s).syncWidth = s.syncWidth ∧
    (edge { Config.hardware with dzExclusive := true } t s).lastEdgeTime = t

/-! ### Invariants and whole-machine rules -/

/-- The reset state meets the invariants, for every draw t0 (70_reset_and_hazards.md §1). -/
def Obligations.ResetMeetsTheInvariants : Prop :=
  (∀ t0 : Word, (State.resetWith t0).Inv) ∧ State.reset.Inv

/-- I1 to I4 (10_state.md §2), with the buffer's canonical form, its index range and every entry below `len` written:
kept by every step, whatever waits at the port. -/
def Obligations.EveryStepKeepsTheInvariants : Prop :=
  ∀ s s' : State, s.Inv → step s = .next s' → s'.Inv

/-- No observer ever sees `recording` = 0 with a non-empty buffer, in any run from a state that meets the invariants. -/
def Obligations.NoRunIsEverTorn : Prop :=
  ∀ (n : Nat) (s s' : State), s.Inv → Sys2Proof.core.run n s = .next s' → s'.torn = false

/-- Bounds on a completed frame, an inference the spec marks as its own in 41_capture.md §3: 33 to 256 intervals, each
at most 20000 us, the last above 3500 us and above `sync_width` - 100. -/
def Obligations.CompletedFrameBounds : Prop :=
  ∀ (t : Word) (s s' : State), s.Inv → exec (.edge t) s = .next s' → s'.status &&& 0b0000010#7 ≠ 0#7 →
    ∃ d : Nat, Elapsed t s.lastEdgeTime d ∧
      33 ≤ (s.frame ++ [BitVec.ofNat 32 d]).length ∧ (s.frame ++ [BitVec.ofNat 32 d]).length ≤ 256 ∧
      (∀ v ∈ s.frame ++ [BitVec.ofNat 32 d], v.toNat ≤ 20000) ∧
      3500 < d ∧ (s.syncWidth.toNat : Int) - 100 < (d : Int) ∧
      (∃ o, s'.out = some o ∧ o.frameLen.toNat = (s.frame ++ [BitVec.ofNat 32 d]).length ∧
        o.nx = nexusDecode Config.hardware (s.frame ++ [BitVec.ofNat 32 d]) ∧
        o.al = alarmDecode Config.hardware (s.frame ++ [BitVec.ofNat 32 d]))

/-- A frame opened by an interval above 20100 us can never close, an inference the spec marks as its own in
41_capture.md §3: no EDGE reports FRAME or SHORT, and while there is room and the interval is not in the dead zone the
frame stays open with the same `sync_width`. -/
def Obligations.LongSyncFrameNeverCloses : Prop :=
  ∀ (t : Word) (s : State), s.recording = true → 20100 < s.syncWidth.toNat →
    ∃ s', exec (.edge t) s = .next s' ∧ s'.status &&& 0b0000110#7 = 0#7 ∧
      (∀ d : Nat, Elapsed t s.lastEdgeTime d → s.len.toNat < 256 → d ≤ 20000 →
        s'.recording = true ∧ s'.syncWidth = s.syncWidth)

/-- What an event can tell of a state is `ObsEq` alone: two states alike in it report the same record at the next step
and stay alike. So no entry at or above `len`, no `sync_width` outside a frame, and no old record is ever observed
(10_state.md §1). It compares two runs: at a RESET that both get the same `last_edge_time`, and at a simultaneous pair that
both take the same order, are the model's choices, the free values being functions of the counters (logs 4 and 6). -/
def Obligations.UnobservableStateIsNeverObserved : Prop :=
  ∀ a b a' : State, a.ObsEq b → step a = .next a' →
    ∃ b', step b = .next b' ∧ a'.ObsEq b' ∧ a'.out = b'.out

/-- The watchdog is redundant for frames, an inference the spec marks as its own in 41_capture.md §4: where a TICK
fires and the next EDGE is no earlier, the state after that EDGE is, as far as any event can tell, the one without the
TICK. -/
def Obligations.WatchdogIsRedundantForFrames : Prop :=
  ∀ (now t : Word) (s : State) (el d : Nat), Elapsed now s.lastEdgeTime el → Elapsed t s.lastEdgeTime d →
    20000 < el → el ≤ d →
    ∃ a b c, exec (.tick now) s = .next a ∧ exec (.edge t) a = .next b ∧ exec (.edge t) s = .next c ∧ b.ObsEq c

/-- An EDGE and a TICK of one time end, in either order, in states that no event can tell apart (20_memory.md §3 and
60_exceptions.md §2, an inference the spec marks as its own). -/
def Obligations.SimultaneousOrderIsImmaterial : Prop :=
  ∀ (t : Word) (s : State),
    ∃ a b c d, exec (.edge t) s = .next a ∧ exec (.tick t) a = .next b ∧
      exec (.tick t) s = .next c ∧ exec (.edge t) c = .next d ∧ b.ObsEq d

/-! ### The primitives (R130 to R136) -/

/-- R130: `tol(v, n)` is true iff 0.75 n < v < 1.25 n, false at and beyond the boundary. -/
def Obligations.ToleranceIsTheOpenWindow : Prop :=
  ∀ v n : Nat, tol Config.hardware v n = true ↔ (3 / 4 : ℚ) * n < v ∧ (v : ℚ) < (5 / 4 : ℚ) * n

/-- The integer windows of every nominal in use, and that the two gap windows are disjoint (40_primitives.md §1, an
inference the spec marks as its own). -/
def Obligations.ToleranceWindowsInUse : Prop :=
  ∀ v : Nat,
    (tol Config.hardware v 400 = true ↔ 301 ≤ v ∧ v ≤ 499) ∧ (tol Config.hardware v 480 = true ↔ 361 ≤ v ∧ v ≤ 599) ∧
    (tol Config.hardware v 500 = true ↔ 376 ≤ v ∧ v ≤ 624) ∧ (tol Config.hardware v 1000 = true ↔ 751 ≤ v ∧ v ≤ 1249) ∧
    (tol Config.hardware v 2000 = true ↔ 1501 ≤ v ∧ v ≤ 2499) ∧
    (tol Config.hardware v 4000 = true ↔ 3001 ≤ v ∧ v ≤ 4999) ∧
    (tol Config.hardware v 13000 = true ↔ 9751 ≤ v ∧ v ≤ 16249) ∧
    ¬ (tol Config.hardware v 1000 = true ∧ tol Config.hardware v 2000 = true)

/-- R133: `U` reads the range as a big-endian binary number, so it is below 2^(f-s+1). -/
def Obligations.UnsignedExtractionIsBigEndian : Prop :=
  ∀ (b : List Bool) (s f : Nat), s ≤ f → f < b.length →
    U b s f = ∑ i ∈ Finset.Icc s f, (b.getD i false).toNat * 2 ^ (f - i) ∧ U b s f < 2 ^ (f - s + 1)

/-- `S` is the two's-complement value of the range (40_primitives.md §2, an inference the spec marks as its own). -/
def Obligations.SignedExtractionIsTwosComplement : Prop :=
  ∀ (b : List Bool) (s f : Nat), s ≤ f → f < b.length →
    S b s f = (if b.getD s false then (U b s f : Int) - 2 ^ (f - s + 1) else (U b s f : Int)) ∧
    -(2 ^ (f - s) : Int) ≤ S b s f ∧ S b s f ≤ 2 ^ (f - s) - 1

/-- The general extractors refuse exactly the ranges with s > f or f ≥ |b| (40_primitives.md §2, decision D30). -/
def Obligations.ExtractorsRefuseRangesOutside : Prop :=
  ∀ (b : List Bool) (s f : Nat),
    (f < s ∨ b.length ≤ f → extractUnsigned b s f = none ∧ extractSigned b s f = none) ∧
    (s ≤ f → f < b.length → extractUnsigned b s f = some (U b s f) ∧ extractSigned b s f = some (S b s f))

/-- R136: `long(x)` is `x > 1000`; a tie is short. -/
def Obligations.ThresholdIsStrict : Prop :=
  ∀ x : Nat, (1000 < x → long Config.hardware x = true) ∧ (x ≤ 1000 → long Config.hardware x = false)

/-! ### The Nexus decoder (R210 to R221) -/

/-- The length checks of both decoders under both values of P_LEN_DIV (42_nexus.md §2, 43_alarm.md §2). -/
def Obligations.LengthChecksAccept : Prop :=
  ∀ L : Nat,
    (lenOK Config.hardware L 2 36 = true ↔ L = 74) ∧ (lenOK Config.hardware L 1 24 = true ↔ L = 49) ∧
    (lenOK { Config.hardware with lenDiv := .floor } L 2 36 = true ↔ L = 74 ∨ L = 75) ∧
    (lenOK { Config.hardware with lenDiv := .floor } L 1 24 = true ↔ L = 49 ∨ L = 50)

/-- The first failing test of length, sync pulse and sync interval gives the verdict LEN (1), SYNC_PULSE (2) or
SYNC_LEN (3), and every other Nexus field is 0 (42_nexus.md §2). -/
def Obligations.NexusRejectsLengthAndSync : Prop :=
  ∀ F : Frame,
    (F.length ≠ 74 → nexusDecode Config.hardware F = { code := 1#3 }) ∧
    (F.length = 74 → ¬ (375 < ival F 72 ∧ ival F 72 < 625) → nexusDecode Config.hardware F = { code := 2#3 }) ∧
    (F.length = 74 → 375 < ival F 72 → ival F 72 < 625 → ¬ (3000 < ival F 73 ∧ ival F 73 < 5000) →
      nexusDecode Config.hardware F = { code := 3#3 })

/-- R214: every pulse is tested before any gap matters; the verdict is PULSE (4) with the smallest failing pair; with
all 36 pulses good the frame is decoded whatever its gaps. -/
def Obligations.NexusRejectsTheFirstBadPulse : Prop :=
  (∀ F : Frame, NexusShaped F → (nexusDecode Config.hardware F).valid = 1#1) ∧
  ∀ (F : Frame) (i : Nat), F.length = 74 → 375 < ival F 72 → ival F 72 < 625 → 3000 < ival F 73 → ival F 73 < 5000 →
    i < 36 → ¬ (360 < ival F (2 * i) ∧ ival F (2 * i) < 600) →
    (∀ j, j < i → 360 < ival F (2 * j) ∧ ival F (2 * j) < 600) →
    nexusDecode Config.hardware F = { code := 4#3, pair := BitVec.ofNat 6 i }

/-- The reading of an accepted frame (42_nexus.md §2): the classified bits in order fill `nb` from position 0 and the
rest is 0; the fields are extracted from it, the channel plus 1, the temperature signed; no field is range-checked. -/
def Obligations.NexusReadingOfAnAcceptedFrame : Prop :=
  ∀ F : Frame, NexusShaped F → ∀ x, nexusDecode Config.hardware F = x →
    x.valid = 1#1 ∧ x.code = 0#3 ∧ x.pair = 0#6 ∧ x.nbits.toNat = (gapBitsOf F).length ∧
    x.id.toNat = U (nexusBitsOf F) 0 7 ∧ x.battery.toNat = U (nexusBitsOf F) 8 8 ∧
    x.channel.toNat = U (nexusBitsOf F) 10 11 + 1 ∧ x.temp.toInt = S (nexusBitsOf F) 14 23 ∧
    x.humidity.toNat = U (nexusBitsOf F) 28 35

/-- §8 property 6 for every bit sequence, not one: the frame that encodes 36 bits gives back the fields of those bits. -/
def Obligations.NexusRoundTripOfEveryBitSequence : Prop :=
  ∀ bits : List Bool, bits.length = 36 → ∀ x, nexusDecode Config.hardware (nexusFrameOf bits) = x →
    x.valid = 1#1 ∧ x.code = 0#3 ∧ x.nbits = 36#6 ∧
    x.id.toNat = U bits 0 7 ∧ x.battery.toNat = U bits 8 8 ∧ x.channel.toNat = U bits 10 11 + 1 ∧
    x.temp.toInt = S bits 14 23 ∧ x.humidity.toNat = U bits 28 35

/-- The parameter P_NEXUS_SHORT (42_nexus.md §2): with REJECT, fewer than 36 bits give SHORT (5) with `nx_nbits` and no
reading; with all 36 the two values agree. -/
def Obligations.NexusShortCountParameter : Prop :=
  ∀ F : Frame, NexusShaped F →
    ((gapBitsOf F).length < 36 →
      nexusDecode { Config.hardware with nexusShort := .reject } F =
        { code := 5#3, nbits := BitVec.ofNat 6 (gapBitsOf F).length }) ∧
    ((gapBitsOf F).length = 36 →
      nexusDecode { Config.hardware with nexusShort := .reject } F = nexusDecode Config.hardware F)

/-- Positions 9, 12, 13 and 24 to 27 of `nb` are read by no extraction (42_nexus.md §2, decision D29). -/
def Obligations.NexusIgnoresSevenPositions : Prop :=
  ∀ (nb nb' : List Bool) (nn : Nat), nb.length = 36 → nb'.length = 36 →
    (∀ i, i < 36 → i ∉ [9, 12, 13, 24, 25, 26, 27] → nb.getD i false = nb'.getD i false) →
    nexusReading { nb := nb, nn := nn } = nexusReading { nb := nb', nn := nn }

/-! ### The Alarm decoder (R250 to R259) -/

/-- The first failing test of length, sync pulse and sync interval gives the verdict LEN (1), SYNC_PULSE (2) or
SYNC_LEN (3), and every other Alarm field is 0 (43_alarm.md §2). -/
def Obligations.AlarmRejectsLengthAndSync : Prop :=
  ∀ F : Frame,
    (F.length ≠ 49 → alarmDecode Config.hardware F = { code := 1#2 }) ∧
    (F.length = 49 → ¬ (300 < ival F 47 ∧ ival F 47 < 500) → alarmDecode Config.hardware F = { code := 2#2 }) ∧
    (F.length = 49 → 300 < ival F 47 → ival F 47 < 500 → ¬ (9750 < ival F 48 ∧ ival F 48 < 16250) →
      alarmDecode Config.hardware F = { code := 3#2 })

/-- The event of an accepted frame (43_alarm.md §2): bit k is `F[2k] > 1000`, `id` is bits 0 to 15 and `cmd` bits 16 to
23, big-endian, and symbol j of `al_tri`, in its bits 23-2j and 22-2j, is the pair of `F[4j] > 1000` and
`F[4j+2] > 1000`. No data interval is checked for shape. -/
def Obligations.AlarmEventOfAnAcceptedFrame : Prop :=
  ∀ F : Frame, AlarmShaped F → ∀ x, alarmDecode Config.hardware F = x →
    x.valid = 1#1 ∧ x.code = 0#2 ∧
    x.id.toNat = U ((List.range 24).map fun k => decide (1000 < ival F (2 * k))) 0 15 ∧
    x.cmd.toNat = U ((List.range 24).map fun k => decide (1000 < ival F (2 * k))) 16 23 ∧
    (∀ j, j < 12 →
      x.tri.getLsbD (23 - 2 * j) = decide (1000 < ival F (4 * j)) ∧
      x.tri.getLsbD (22 - 2 * j) = decide (1000 < ival F (4 * j + 2)))

/-- The tri-state code carries nothing beyond `al_id` and `al_cmd` (43_alarm.md §2, an inference the spec marks as its
own; C6, C10). -/
def Obligations.AlarmTriIsIdThenCmd : Prop :=
  ∀ F : Frame, (alarmDecode Config.hardware F).tri.toNat =
    (alarmDecode Config.hardware F).id.toNat * 2 ^ 8 + (alarmDecode Config.hardware F).cmd.toNat

/-- The odd intervals before the sync pair are read by nothing under P_ALARM_BIT_PHASE = 0 (43_alarm.md §2). -/
def Obligations.AlarmIgnoresOddIntervals : Prop :=
  ∀ F G : Frame, F.length = G.length → (∀ i, i < F.length → (i % 2 = 0 ∨ 47 ≤ i) → F[i]? = G[i]?) →
    alarmDecode Config.hardware F = alarmDecode Config.hardware G

/-- The parameter P_ALARM_BIT_PHASE = 1 (43_alarm.md §2): `al_id` and `al_cmd` are read from the odd intervals, bit 23
from the sync pulse; the tri-state code is the one of phase 0. -/
def Obligations.AlarmBitPhaseOneReadsOddIntervals : Prop :=
  ∀ F : Frame, AlarmShaped F → ∀ x, alarmDecode { Config.hardware with alarmPhase := 1 } F = x →
    x.valid = 1#1 ∧ x.code = 0#2 ∧ x.tri = (alarmDecode Config.hardware F).tri ∧
    x.id.toNat = U ((List.range 24).map fun k => decide (1000 < ival F (2 * k + 1))) 0 15 ∧
    x.cmd.toNat = U ((List.range 24).map fun k => decide (1000 < ival F (2 * k + 1))) 16 23

/-- The parameter P_LEN_DIV = FLOOR (42_nexus.md §2, 43_alarm.md §1): a frame with one more interval just before its
sync pair is decoded as the frame without it. -/
def Obligations.FloorIgnoresTheExtraInterval : Prop :=
  ∀ (D : Frame) (x p l : Word),
    (D.length = 72 → nexusDecode { Config.hardware with lenDiv := .floor } (D ++ [x, p, l]) =
      nexusDecode Config.hardware (D ++ [p, l])) ∧
    (D.length = 47 → alarmDecode { Config.hardware with lenDiv := .floor } (D ++ [x, p, l]) =
      alarmDecode Config.hardware (D ++ [p, l]))

/-- At most one decoder emits a reading for a frame, under either value of P_LEN_DIV (41_capture.md §2, an inference the
spec marks as its own). -/
def Obligations.AtMostOneReadingPerFrame : Prop :=
  ∀ (d : LenDiv) (F : Frame),
    ¬ ((nexusDecode { Config.hardware with lenDiv := d } F).valid = 1#1 ∧
       (alarmDecode { Config.hardware with lenDiv := d } F).valid = 1#1)

/-! ### The publisher boundary and event programs -/

/-- The publisher's string spells the frame's symbols in order, in the characters `0`, `Z`, `X`, `1` (60_exceptions.md
§4, 30_encoding.md §3). -/
def Obligations.PublishedTriSpellsTheSymbols : Prop :=
  ∀ F : Frame, AlarmShaped F →
    triText (alarmDecode Config.hardware F).tri = (List.range 12).map fun j =>
      if 1000 < ival F (4 * j) then (if 1000 < ival F (4 * j + 2) then '1' else 'X')
      else (if 1000 < ival F (4 * j + 2) then 'Z' else '0')

/-- `IVS` (30_encoding.md §4): one EDGE per interval, each as many microseconds after the one before, modulo 2^32, and
the last one's time is T afterwards. -/
def Obligations.IntervalLinesGiveTheirIntervals : Prop :=
  ∀ (ds : List Nat) (d : Nat) (T : Word),
    (expandIntervals (ds ++ [d]) T).1 =
      (expandIntervals ds T).1 ++ [.word (encode (.edge (expandIntervals (ds ++ [d]) T).2))] ∧
    Elapsed (expandIntervals (ds ++ [d]) T).2 (expandIntervals ds T).2 (d % 2 ^ 32) ∧
    (expandIntervals [] T) = ([], T)

/-! ### The timestamp width W_T as a parameter (R10) -/

/-- This hardware's step is the block's at W_T = 32 with `Config.hardware`, and so is each event's effect. -/
def Obligations.StepIsTheBlockOfThisHardware : Prop :=
  (∀ s : State, step s = .next (blockStep Config.hardware s)) ∧
  (∀ (i : Instr) (s : State), exec i s = .next (runEvent Config.hardware i s))

/-- For every W_T, decode and encode are inverse to each other on the `2 + W_T` bits of an event word (its width for
another W_T than 32 is the model's inference, log 7), and `op` is its two upper bits. -/
def Obligations.EncodingAtEveryTimestampWidth : Prop :=
  ∀ W : Nat, (∀ i : Instr W, decode (encode i) = i ∧ (encode i).toNat = i.op.toNat * 2 ^ W + i.time.toNat) ∧
    (∀ w : EventWord W, encode (decode w) = w)

/-- The parameter W_T (00_scope.md §4): for every width and every configuration EDGE measures modulo 2^W_T and latches,
TICK compares the elapsed time modulo 2^W_T with INACT, and RESET leaves the sentinel 2^W_T - 1. -/
def Obligations.EventsAtEveryTimestampWidth : Prop :=
  ∀ (W : Nat) (c : Config) (t : Word W) (s : State W),
    (runEvent c (.edge t) s).lastEdgeTime = t ∧
    (∃ dur : Word W, Elapsed t s.lastEdgeTime dur.toNat ∧
      runEvent c (.edge t) s = edgeSync c dur (edgeDeadZone c dur
        (edgeAppend c dur { s with lastEdgeTime := t, out := some {} }))) ∧
    (∀ el : Nat, Elapsed t s.lastEdgeTime el →
      (el ≤ c.inact → runEvent c (.tick t) s = { s with out := some {} }) ∧
      (c.inact < el → runEvent c (.tick t) s =
        { s with recording := false, len := 0#9, out := some { status := 0b0100000#7 } })) ∧
    (∀ rest, s.input = .reset :: rest → (blockStep c s).recording = false ∧ (blockStep c s).len = 0#9 ∧
      (blockStep c s).syncWidth.toNat = 2 ^ W - 1 ∧ (blockStep c s).out = none)
end

