-- ==== Sys2Proof/Laws/State.lean ====
section
/-! SUPPORT. One lemma per field per state update (the updates of Machine/Ops.lean and Machine/Flags.lean). -/

namespace Sys2Proof.Machine

open Sys2Proof

variable {W : Nat} (s : State W)

@[simp] theorem State.bufAppend_recording (v : Word W) : (s.bufAppend v).recording = s.recording := rfl
@[simp] theorem State.bufAppend_len (v : Word W) : (s.bufAppend v).len = s.len + 1#9 := rfl
@[simp] theorem State.bufAppend_buf (v : Word W) : (s.bufAppend v).buf = s.buf.write s.len.toNat v := rfl
@[simp] theorem State.bufAppend_syncWidth (v : Word W) : (s.bufAppend v).syncWidth = s.syncWidth := rfl
@[simp] theorem State.bufAppend_lastEdgeTime (v : Word W) : (s.bufAppend v).lastEdgeTime = s.lastEdgeTime := rfl
@[simp] theorem State.bufAppend_out (v : Word W) : (s.bufAppend v).out = s.out := rfl
@[simp] theorem State.bufAppend_input (v : Word W) : (s.bufAppend v).input = s.input := rfl
@[simp] theorem State.bufAppend_resets (v : Word W) : (s.bufAppend v).resets = s.resets := rfl
@[simp] theorem State.bufAppend_races (v : Word W) : (s.bufAppend v).races = s.races := rfl

@[simp] theorem State.bufClear_recording : (s.bufClear).recording = s.recording := rfl
@[simp] theorem State.bufClear_len : (s.bufClear).len = 0#9 := rfl
@[simp] theorem State.bufClear_buf : (s.bufClear).buf = s.buf := rfl
@[simp] theorem State.bufClear_syncWidth : (s.bufClear).syncWidth = s.syncWidth := rfl
@[simp] theorem State.bufClear_lastEdgeTime : (s.bufClear).lastEdgeTime = s.lastEdgeTime := rfl
@[simp] theorem State.bufClear_out : (s.bufClear).out = s.out := rfl
@[simp] theorem State.bufClear_input : (s.bufClear).input = s.input := rfl
@[simp] theorem State.bufClear_resets : (s.bufClear).resets = s.resets := rfl
@[simp] theorem State.bufClear_races : (s.bufClear).races = s.races := rfl

@[simp] theorem State.setRecording_recording (b : Bool) : (s.setRecording b).recording = b := rfl
@[simp] theorem State.setRecording_len (b : Bool) : (s.setRecording b).len = s.len := rfl
@[simp] theorem State.setRecording_buf (b : Bool) : (s.setRecording b).buf = s.buf := rfl
@[simp] theorem State.setRecording_syncWidth (b : Bool) : (s.setRecording b).syncWidth = s.syncWidth := rfl
@[simp] theorem State.setRecording_lastEdgeTime (b : Bool) : (s.setRecording b).lastEdgeTime = s.lastEdgeTime := rfl
@[simp] theorem State.setRecording_out (b : Bool) : (s.setRecording b).out = s.out := rfl
@[simp] theorem State.setRecording_input (b : Bool) : (s.setRecording b).input = s.input := rfl
@[simp] theorem State.setRecording_resets (b : Bool) : (s.setRecording b).resets = s.resets := rfl
@[simp] theorem State.setRecording_races (b : Bool) : (s.setRecording b).races = s.races := rfl

@[simp] theorem State.setSyncWidth_recording (d : Word W) : (s.setSyncWidth d).recording = s.recording := rfl
@[simp] theorem State.setSyncWidth_len (d : Word W) : (s.setSyncWidth d).len = s.len := rfl
@[simp] theorem State.setSyncWidth_buf (d : Word W) : (s.setSyncWidth d).buf = s.buf := rfl
@[simp] theorem State.setSyncWidth_syncWidth (d : Word W) : (s.setSyncWidth d).syncWidth = d := rfl
@[simp] theorem State.setSyncWidth_lastEdgeTime (d : Word W) : (s.setSyncWidth d).lastEdgeTime = s.lastEdgeTime := rfl
@[simp] theorem State.setSyncWidth_out (d : Word W) : (s.setSyncWidth d).out = s.out := rfl
@[simp] theorem State.setSyncWidth_input (d : Word W) : (s.setSyncWidth d).input = s.input := rfl
@[simp] theorem State.setSyncWidth_resets (d : Word W) : (s.setSyncWidth d).resets = s.resets := rfl
@[simp] theorem State.setSyncWidth_races (d : Word W) : (s.setSyncWidth d).races = s.races := rfl

@[simp] theorem State.setLastEdgeTime_recording (t : Word W) : (s.setLastEdgeTime t).recording = s.recording := rfl
@[simp] theorem State.setLastEdgeTime_len (t : Word W) : (s.setLastEdgeTime t).len = s.len := rfl
@[simp] theorem State.setLastEdgeTime_buf (t : Word W) : (s.setLastEdgeTime t).buf = s.buf := rfl
@[simp] theorem State.setLastEdgeTime_syncWidth (t : Word W) : (s.setLastEdgeTime t).syncWidth = s.syncWidth := rfl
@[simp] theorem State.setLastEdgeTime_lastEdgeTime (t : Word W) : (s.setLastEdgeTime t).lastEdgeTime = t := rfl
@[simp] theorem State.setLastEdgeTime_out (t : Word W) : (s.setLastEdgeTime t).out = s.out := rfl
@[simp] theorem State.setLastEdgeTime_input (t : Word W) : (s.setLastEdgeTime t).input = s.input := rfl
@[simp] theorem State.setLastEdgeTime_resets (t : Word W) : (s.setLastEdgeTime t).resets = s.resets := rfl
@[simp] theorem State.setLastEdgeTime_races (t : Word W) : (s.setLastEdgeTime t).races = s.races := rfl

@[simp] theorem State.beginRecord_recording : (s.beginRecord).recording = s.recording := rfl
@[simp] theorem State.beginRecord_len : (s.beginRecord).len = s.len := rfl
@[simp] theorem State.beginRecord_buf : (s.beginRecord).buf = s.buf := rfl
@[simp] theorem State.beginRecord_syncWidth : (s.beginRecord).syncWidth = s.syncWidth := rfl
@[simp] theorem State.beginRecord_lastEdgeTime : (s.beginRecord).lastEdgeTime = s.lastEdgeTime := rfl
@[simp] theorem State.beginRecord_out : (s.beginRecord).out = some {} := rfl
@[simp] theorem State.beginRecord_input : (s.beginRecord).input = s.input := rfl
@[simp] theorem State.beginRecord_resets : (s.beginRecord).resets = s.resets := rfl
@[simp] theorem State.beginRecord_races : (s.beginRecord).races = s.races := rfl

@[simp] theorem State.noRecord_recording : (s.noRecord).recording = s.recording := rfl
@[simp] theorem State.noRecord_len : (s.noRecord).len = s.len := rfl
@[simp] theorem State.noRecord_buf : (s.noRecord).buf = s.buf := rfl
@[simp] theorem State.noRecord_syncWidth : (s.noRecord).syncWidth = s.syncWidth := rfl
@[simp] theorem State.noRecord_lastEdgeTime : (s.noRecord).lastEdgeTime = s.lastEdgeTime := rfl
@[simp] theorem State.noRecord_out : (s.noRecord).out = none := rfl
@[simp] theorem State.noRecord_input : (s.noRecord).input = s.input := rfl
@[simp] theorem State.noRecord_resets : (s.noRecord).resets = s.resets := rfl
@[simp] theorem State.noRecord_races : (s.noRecord).races = s.races := rfl

@[simp] theorem State.emit_recording (f : OutputRecord → OutputRecord) : (s.emit f).recording = s.recording := rfl
@[simp] theorem State.emit_len (f : OutputRecord → OutputRecord) : (s.emit f).len = s.len := rfl
@[simp] theorem State.emit_buf (f : OutputRecord → OutputRecord) : (s.emit f).buf = s.buf := rfl
@[simp] theorem State.emit_syncWidth (f : OutputRecord → OutputRecord) : (s.emit f).syncWidth = s.syncWidth := rfl
@[simp] theorem State.emit_lastEdgeTime (f : OutputRecord → OutputRecord) : (s.emit f).lastEdgeTime = s.lastEdgeTime := rfl
@[simp] theorem State.emit_out (f : OutputRecord → OutputRecord) : (s.emit f).out = s.out.map f := rfl
@[simp] theorem State.emit_input (f : OutputRecord → OutputRecord) : (s.emit f).input = s.input := rfl
@[simp] theorem State.emit_resets (f : OutputRecord → OutputRecord) : (s.emit f).resets = s.resets := rfl
@[simp] theorem State.emit_races (f : OutputRecord → OutputRecord) : (s.emit f).races = s.races := rfl

@[simp] theorem State.emitStatus_recording (b : BitVec 7) : (s.emitStatus b).recording = s.recording := rfl
@[simp] theorem State.emitStatus_len (b : BitVec 7) : (s.emitStatus b).len = s.len := rfl
@[simp] theorem State.emitStatus_buf (b : BitVec 7) : (s.emitStatus b).buf = s.buf := rfl
@[simp] theorem State.emitStatus_syncWidth (b : BitVec 7) : (s.emitStatus b).syncWidth = s.syncWidth := rfl
@[simp] theorem State.emitStatus_lastEdgeTime (b : BitVec 7) : (s.emitStatus b).lastEdgeTime = s.lastEdgeTime := rfl
@[simp] theorem State.emitStatus_out (b : BitVec 7) : (s.emitStatus b).out = s.out.map fun o => { o with status := o.status ||| b } := rfl
@[simp] theorem State.emitStatus_input (b : BitVec 7) : (s.emitStatus b).input = s.input := rfl
@[simp] theorem State.emitStatus_resets (b : BitVec 7) : (s.emitStatus b).resets = s.resets := rfl
@[simp] theorem State.emitStatus_races (b : BitVec 7) : (s.emitStatus b).races = s.races := rfl

@[simp] theorem State.emitFrameLen_recording (n : BitVec 9) : (s.emitFrameLen n).recording = s.recording := rfl
@[simp] theorem State.emitFrameLen_len (n : BitVec 9) : (s.emitFrameLen n).len = s.len := rfl
@[simp] theorem State.emitFrameLen_buf (n : BitVec 9) : (s.emitFrameLen n).buf = s.buf := rfl
@[simp] theorem State.emitFrameLen_syncWidth (n : BitVec 9) : (s.emitFrameLen n).syncWidth = s.syncWidth := rfl
@[simp] theorem State.emitFrameLen_lastEdgeTime (n : BitVec 9) : (s.emitFrameLen n).lastEdgeTime = s.lastEdgeTime := rfl
@[simp] theorem State.emitFrameLen_out (n : BitVec 9) : (s.emitFrameLen n).out = s.out.map fun o => { o with frameLen := n } := rfl
@[simp] theorem State.emitFrameLen_input (n : BitVec 9) : (s.emitFrameLen n).input = s.input := rfl
@[simp] theorem State.emitFrameLen_resets (n : BitVec 9) : (s.emitFrameLen n).resets = s.resets := rfl
@[simp] theorem State.emitFrameLen_races (n : BitVec 9) : (s.emitFrameLen n).races = s.races := rfl

@[simp] theorem State.emitNexus_recording (x : NexusFields) : (s.emitNexus x).recording = s.recording := rfl
@[simp] theorem State.emitNexus_len (x : NexusFields) : (s.emitNexus x).len = s.len := rfl
@[simp] theorem State.emitNexus_buf (x : NexusFields) : (s.emitNexus x).buf = s.buf := rfl
@[simp] theorem State.emitNexus_syncWidth (x : NexusFields) : (s.emitNexus x).syncWidth = s.syncWidth := rfl
@[simp] theorem State.emitNexus_lastEdgeTime (x : NexusFields) : (s.emitNexus x).lastEdgeTime = s.lastEdgeTime := rfl
@[simp] theorem State.emitNexus_out (x : NexusFields) : (s.emitNexus x).out = s.out.map fun o => { o with nx := x } := rfl
@[simp] theorem State.emitNexus_input (x : NexusFields) : (s.emitNexus x).input = s.input := rfl
@[simp] theorem State.emitNexus_resets (x : NexusFields) : (s.emitNexus x).resets = s.resets := rfl
@[simp] theorem State.emitNexus_races (x : NexusFields) : (s.emitNexus x).races = s.races := rfl

@[simp] theorem State.emitAlarm_recording (x : AlarmFields) : (s.emitAlarm x).recording = s.recording := rfl
@[simp] theorem State.emitAlarm_len (x : AlarmFields) : (s.emitAlarm x).len = s.len := rfl
@[simp] theorem State.emitAlarm_buf (x : AlarmFields) : (s.emitAlarm x).buf = s.buf := rfl
@[simp] theorem State.emitAlarm_syncWidth (x : AlarmFields) : (s.emitAlarm x).syncWidth = s.syncWidth := rfl
@[simp] theorem State.emitAlarm_lastEdgeTime (x : AlarmFields) : (s.emitAlarm x).lastEdgeTime = s.lastEdgeTime := rfl
@[simp] theorem State.emitAlarm_out (x : AlarmFields) : (s.emitAlarm x).out = s.out.map fun o => { o with al := x } := rfl
@[simp] theorem State.emitAlarm_input (x : AlarmFields) : (s.emitAlarm x).input = s.input := rfl
@[simp] theorem State.emitAlarm_resets (x : AlarmFields) : (s.emitAlarm x).resets = s.resets := rfl
@[simp] theorem State.emitAlarm_races (x : AlarmFields) : (s.emitAlarm x).races = s.races := rfl

@[simp] theorem State.applyReset_recording : (s.applyReset).recording = false := rfl
@[simp] theorem State.applyReset_len : (s.applyReset).len = 0#9 := rfl
@[simp] theorem State.applyReset_buf : (s.applyReset).buf = [] := rfl
@[simp] theorem State.applyReset_syncWidth : (s.applyReset).syncWidth = sentinel := rfl
@[simp] theorem State.applyReset_lastEdgeTime : (s.applyReset).lastEdgeTime = Config.t0Draw (s.resets + 1) := rfl
@[simp] theorem State.applyReset_out : (s.applyReset).out = none := rfl
@[simp] theorem State.applyReset_input : (s.applyReset).input = s.input := rfl
@[simp] theorem State.applyReset_resets : (s.applyReset).resets = s.resets + 1 := rfl
@[simp] theorem State.applyReset_races : (s.applyReset).races = s.races := rfl

@[simp] theorem State.resetWith_recording (t0 : Word W) : (State.resetWith t0).recording = false := rfl
@[simp] theorem State.resetWith_len (t0 : Word W) : (State.resetWith t0).len = 0#9 := rfl
@[simp] theorem State.resetWith_buf (t0 : Word W) : (State.resetWith t0).buf = [] := rfl
@[simp] theorem State.resetWith_syncWidth (t0 : Word W) : (State.resetWith t0).syncWidth = sentinel := rfl
@[simp] theorem State.resetWith_lastEdgeTime (t0 : Word W) : (State.resetWith t0).lastEdgeTime = t0 := rfl
@[simp] theorem State.resetWith_out (t0 : Word W) : (State.resetWith t0).out = none := rfl
@[simp] theorem State.resetWith_input (t0 : Word W) : (State.resetWith t0).input = [] := rfl
@[simp] theorem State.resetWith_resets (t0 : Word W) : (State.resetWith t0).resets = 0 := rfl
@[simp] theorem State.resetWith_races (t0 : Word W) : (State.resetWith t0).races = 0 := rfl

/-- The sentinel at this hardware's width, and at every width as a number (R34). -/
@[simp] theorem sentinel_hardware : (sentinel : Word) = 0xFFFFFFFF#32 := rfl

theorem sentinel_toNat : (sentinel : Word W).toNat = 2 ^ W - 1 := by
  rw [BitVec.toNat_ofNat, Nat.mod_eq_of_lt (Nat.sub_lt (Nat.two_pow_pos W) Nat.one_pos)]

/-- `State.reset` is the reset state of the first draw of t0. -/
theorem State.reset_eq : State.reset = State.resetWith (Config.t0Draw 0) := rfl

@[simp] theorem hardware_cap : Config.hardware.cap = 256 := rfl
@[simp] theorem hardware_syncTh : Config.hardware.syncTh = 3500 := rfl
@[simp] theorem hardware_syncMargin : Config.hardware.syncMargin = 100 := rfl
@[simp] theorem hardware_minFrame : Config.hardware.minFrame = 32 := rfl
@[simp] theorem hardware_dzLo : Config.hardware.dzLo = 100 := rfl
@[simp] theorem hardware_inact : Config.hardware.inact = 20000 := rfl
@[simp] theorem hardware_tolLoNum : Config.hardware.tolLoNum = 3 := rfl
@[simp] theorem hardware_tolHiNum : Config.hardware.tolHiNum = 5 := rfl
@[simp] theorem hardware_tolDen : Config.hardware.tolDen = 4 := rfl
@[simp] theorem hardware_nxPairs : Config.hardware.nxPairs = 36 := rfl
@[simp] theorem hardware_nxSyncPulse : Config.hardware.nxSyncPulse = 500 := rfl
@[simp] theorem hardware_nxSyncLen : Config.hardware.nxSyncLen = 4000 := rfl
@[simp] theorem hardware_nxPulse : Config.hardware.nxPulse = 480 := rfl
@[simp] theorem hardware_nxGap0 : Config.hardware.nxGap0 = 1000 := rfl
@[simp] theorem hardware_nxGap1 : Config.hardware.nxGap1 = 2000 := rfl
@[simp] theorem hardware_alBits : Config.hardware.alBits = 24 := rfl
@[simp] theorem hardware_alSyms : Config.hardware.alSyms = 12 := rfl
@[simp] theorem hardware_alSyncPulse : Config.hardware.alSyncPulse = 400 := rfl
@[simp] theorem hardware_alSyncLen : Config.hardware.alSyncLen = 13000 := rfl
@[simp] theorem hardware_alTh : Config.hardware.alTh = 1000 := rfl
@[simp] theorem hardware_wdPeriod : Config.hardware.wdPeriod = 10 := rfl
@[simp] theorem hardware_dzExclusive : Config.hardware.dzExclusive = false := rfl
@[simp] theorem hardware_lenDiv : Config.hardware.lenDiv = .exact := rfl
@[simp] theorem hardware_nexusShort : Config.hardware.nexusShort = .zeroFill := rfl
@[simp] theorem hardware_alarmPhase : Config.hardware.alarmPhase = 0 := rfl

end Sys2Proof.Machine
end

