-- ==== Sys2Proof/Laws/Memory.lean ====
section
/-! SUPPORT. The laws of the capture buffer: read after write, the canonical form, the frame readout. -/

namespace Sys2Proof.Machine

open Sys2Proof

variable {W : Nat}

@[simp] theorem Memory.read_nil (i : Nat) : Memory.read ([] : Memory W) i = none := rfl

theorem Memory.read_cons (k : Nat) (v : Word W) (m : Memory W) (i : Nat) :
    Memory.read ((k, v) :: m) i = if k = i then some v else Memory.read m i := rfl

@[simp] theorem Memory.read_write_same (m : Memory W) (i : Nat) (v : Word W) : (m.write i v).read i = some v := by
  induction m with
  | nil => simp [Memory.write, Memory.read]
  | cons c rest ih =>
    obtain ⟨k, u⟩ := c
    unfold Memory.write
    split
    · simp [Memory.read]
    · split
      · simp [Memory.read]
      · rw [Memory.read_cons, if_neg (by omega), ih]

theorem Memory.read_write_other (m : Memory W) (i j : Nat) (v : Word W) (h : j ≠ i) :
    (m.write i v).read j = m.read j := by
  induction m with
  | nil => simp [Memory.write, Memory.read, Ne.symm h]
  | cons c rest ih =>
    obtain ⟨k, u⟩ := c
    unfold Memory.write
    split
    · rw [Memory.read_cons, if_neg (Ne.symm h)]
    · split
      · rename_i hk
        rw [Memory.read_cons, Memory.read_cons, if_neg (Ne.symm h), if_neg (by omega)]
      · rw [Memory.read_cons, Memory.read_cons, ih]

/-- The canonical form as a statement about the list. -/
theorem Memory.wf_iff (m : Memory W) : m.wf = true ↔ m.Pairwise (fun a b => a.1 < b.1) := by
  induction m with
  | nil => simp [Memory.wf]
  | cons c rest ih =>
    obtain ⟨i, u⟩ := c
    cases rest with
    | nil => simp [Memory.wf]
    | cons d rest =>
      obtain ⟨j, w⟩ := d
      rw [Memory.wf, Bool.and_eq_true, decide_eq_true_iff, ih, List.pairwise_cons (a := (i, u))]
      constructor
      · rintro ⟨hij, hp⟩
        refine ⟨?_, hp⟩
        intro c hc
        rcases List.mem_cons.mp hc with rfl | hc
        · exact hij
        · exact lt_trans hij ((List.pairwise_cons.mp hp).1 c hc)
      · rintro ⟨ha, hp⟩
        exact ⟨ha (j, w) (by simp), hp⟩

/-- A write adds no index but its own. -/
theorem Memory.mem_write {m : Memory W} {i : Nat} {v : Word W} {c : Nat × Word W} (h : c ∈ m.write i v) :
    c = (i, v) ∨ c ∈ m := by
  induction m with
  | nil => simpa [Memory.write] using h
  | cons d rest ih =>
    obtain ⟨k, u⟩ := d
    unfold Memory.write at h
    split at h
    · simpa using h
    · split at h
      · rcases List.mem_cons.mp h with h | h
        · exact .inl h
        · exact .inr (List.mem_cons_of_mem _ h)
      · rcases List.mem_cons.mp h with h | h
        · exact .inr (by simp [h])
        · rcases ih h with h | h
          · exact .inl h
          · exact .inr (List.mem_cons_of_mem _ h)

/-- A write keeps the canonical form. -/
theorem Memory.write_wf (m : Memory W) (i : Nat) (v : Word W) (h : m.wf = true) : (m.write i v).wf = true := by
  rw [Memory.wf_iff] at *
  induction m with
  | nil => simp [Memory.write]
  | cons c rest ih =>
    obtain ⟨k, u⟩ := c
    obtain ⟨hk, hr⟩ := List.pairwise_cons.mp h
    unfold Memory.write
    split
    · rename_i hik
      refine List.pairwise_cons.mpr ⟨?_, h⟩
      intro c hc
      rcases List.mem_cons.mp hc with rfl | hc
      · exact hik
      · exact lt_trans hik (hk c hc)
    · split
      · rename_i hik
        subst hik
        exact List.pairwise_cons.mpr ⟨fun c hc => hk c hc, hr⟩
      · refine List.pairwise_cons.mpr ⟨?_, ih hr⟩
        intro c hc
        rcases Memory.mem_write hc with rfl | hc
        · simp only; omega
        · exact hk c hc

/-- The reset state's buffer is in canonical form. -/
theorem State.reset_buf_wf : Memory.wf State.reset.buf = true := rfl

/-- The entry an append writes. -/
@[simp] theorem State.bufAppend_bufRead_same (s : State W) (v : Word W) : (s.bufAppend v).bufRead s.len.toNat = v := by
  simp [State.bufRead]

/-- An append leaves every other entry. -/
theorem State.bufAppend_bufRead_other (s : State W) (v : Word W) (i : Nat) (h : i ≠ s.len.toNat) :
    (s.bufAppend v).bufRead i = s.bufRead i := by
  simp [State.bufRead, Memory.read_write_other _ _ _ _ h]

/-- `len` after an append, while 9 bits hold it. -/
theorem State.bufAppend_len_toNat (s : State W) (v : Word W) (h : s.len.toNat < 256) :
    (s.bufAppend v).len.toNat = s.len.toNat + 1 := by
  rw [State.bufAppend_len, BitVec.toNat_add]
  simp
  omega

theorem State.frame_length (s : State W) : s.frame.length = s.len.toNat := by simp [State.frame]

/-- The readout's elements. -/
theorem State.frame_getElem? (s : State W) (i : Nat) (h : i < s.len.toNat) : s.frame[i]? = some (s.bufRead i) := by
  simp [State.frame, h]

/-- An append puts its interval at the end of the readout. -/
theorem State.frame_bufAppend (s : State W) (v : Word W) (h : s.len.toNat < 256) :
    (s.bufAppend v).frame = s.frame ++ [v] := by
  unfold State.frame
  rw [State.bufAppend_len_toNat s v h, List.range_succ, List.map_append]
  congr 1
  · apply List.map_congr_left
    intro i hi
    exact State.bufAppend_bufRead_other s v i (by have := List.mem_range.mp hi; omega)
  · simp

/-! An update that leaves the entries leaves every read, and one that leaves `len` too leaves the readout. -/

@[simp] theorem State.bufClear_bufRead (s : State W) : (s.bufClear).bufRead = s.bufRead := rfl
@[simp] theorem State.setRecording_bufRead (s : State W) (b : Bool) : (s.setRecording b).bufRead = s.bufRead := rfl
@[simp] theorem State.setSyncWidth_bufRead (s : State W) (d : Word W) : (s.setSyncWidth d).bufRead = s.bufRead := rfl
@[simp] theorem State.setLastEdgeTime_bufRead (s : State W) (t : Word W) : (s.setLastEdgeTime t).bufRead = s.bufRead := rfl
@[simp] theorem State.beginRecord_bufRead (s : State W) : (s.beginRecord).bufRead = s.bufRead := rfl
@[simp] theorem State.noRecord_bufRead (s : State W) : (s.noRecord).bufRead = s.bufRead := rfl
@[simp] theorem State.emitStatus_bufRead (s : State W) (b : BitVec 7) : (s.emitStatus b).bufRead = s.bufRead := rfl
@[simp] theorem State.emitFrameLen_bufRead (s : State W) (n : BitVec 9) : (s.emitFrameLen n).bufRead = s.bufRead := rfl
@[simp] theorem State.emitNexus_bufRead (s : State W) (x : NexusFields) : (s.emitNexus x).bufRead = s.bufRead := rfl
@[simp] theorem State.emitAlarm_bufRead (s : State W) (x : AlarmFields) : (s.emitAlarm x).bufRead = s.bufRead := rfl

@[simp] theorem State.setRecording_frame (s : State W) (b : Bool) : (s.setRecording b).frame = s.frame := rfl
@[simp] theorem State.setSyncWidth_frame (s : State W) (d : Word W) : (s.setSyncWidth d).frame = s.frame := rfl
@[simp] theorem State.setLastEdgeTime_frame (s : State W) (t : Word W) : (s.setLastEdgeTime t).frame = s.frame := rfl
@[simp] theorem State.beginRecord_frame (s : State W) : (s.beginRecord).frame = s.frame := rfl
@[simp] theorem State.noRecord_frame (s : State W) : (s.noRecord).frame = s.frame := rfl
@[simp] theorem State.emitStatus_frame (s : State W) (b : BitVec 7) : (s.emitStatus b).frame = s.frame := rfl
@[simp] theorem State.emitFrameLen_frame (s : State W) (n : BitVec 9) : (s.emitFrameLen n).frame = s.frame := rfl
@[simp] theorem State.emitNexus_frame (s : State W) (x : NexusFields) : (s.emitNexus x).frame = s.frame := rfl
@[simp] theorem State.emitAlarm_frame (s : State W) (x : AlarmFields) : (s.emitAlarm x).frame = s.frame := rfl

/-- The readout depends on `len` and on the entries below it alone. -/
theorem State.frame_congr {a b : State W} (hl : a.len = b.len)
    (he : ∀ i, i < a.len.toNat → a.bufRead i = b.bufRead i) : a.frame = b.frame := by
  unfold State.frame
  rw [← hl]
  exact List.map_congr_left fun i hi => he i (List.mem_range.mp hi)

end Sys2Proof.Machine
end

