-- ==== Sys2Proof/Laws/Primitives.lean ====
section
/-! SUPPORT. What each primitive computes, for callers that do not unfold it. -/

namespace Sys2Proof.Machine

open Sys2Proof

variable {W : Nat}

/-- The comparator on this hardware (R130). -/
theorem tol_hardware (v n : Nat) : tol Config.hardware v n = true ↔ 3 * n < 4 * v ∧ 4 * v < 5 * n := by
  unfold tol
  rw [Bool.and_eq_true, decide_eq_true_iff, decide_eq_true_iff]
  exact Iff.rfl

theorem tol_hardware_false (v n : Nat) : tol Config.hardware v n = false ↔ ¬ (3 * n < 4 * v ∧ 4 * v < 5 * n) := by
  rw [← tol_hardware, Bool.not_eq_true]

/-- The classifier on this hardware (R136). -/
theorem long_hardware (x : Nat) : long Config.hardware x = decide (1000 < x) := rfl

/-- The length check under EXACT (R212), as an equation over the naturals. -/
theorem lenOK_exact (c : Config) (L k N : Nat) (h : c.lenDiv = .exact) :
    lenOK c L k N = true ↔ L = 2 * N + k := by
  unfold lenOK
  rw [h, decide_eq_true_iff]
  omega

/-- The length check under FLOOR (R212). -/
theorem lenOK_floor (c : Config) (L k N : Nat) (h : c.lenDiv = .floor) :
    lenOK c L k N = true ↔ L = 2 * N + k ∨ L = 2 * N + k + 1 := by
  unfold lenOK
  rw [h, decide_eq_true_iff]
  omega

/-- The interval as a number (R162). -/
theorem interval_toNat (a b : Word W) :
    ((interval a b).toNat : Int) = ((a.toNat : Int) - (b.toNat : Int)) % 2 ^ W := by
  unfold interval
  have e : (2 : Int) ^ W - b.toNat + a.toNat = (a.toNat - b.toNat) + 2 ^ W := by ring
  rw [BitVec.toNat_sub, Int.natCast_emod, Int.natCast_add, Int.natCast_sub b.isLt.le, Int.natCast_pow, Nat.cast_ofNat,
    e, Int.add_emod_right]

/-- An interval of a given number of microseconds is that word. -/
theorem interval_eq_of {a b : Word W} {d : Nat}
    (h : ((a.toNat : Int) - (b.toNat : Int)) % 2 ^ W = (d : Int)) : interval a b = BitVec.ofNat W d := by
  apply BitVec.eq_of_toNat_eq
  have h1 : (interval a b).toNat = d := by exact_mod_cast (interval_toNat a b).trans h
  rw [BitVec.toNat_ofNat, ← h1, Nat.mod_eq_of_lt (interval a b).isLt]

theorem U_self (b : List Bool) (s : Nat) : U b s s = (b.getD s false).toNat := by
  simp [U, List.range'_one]

/-- One more symbol on the right (R133). -/
theorem U_succ (b : List Bool) (s f : Nat) (h : s ≤ f) :
    U b s (f + 1) = 2 * U b s f + (b.getD (f + 1) false).toNat := by
  have e : f + 1 + 1 - s = (f + 1 - s) + 1 := by omega
  unfold U
  rw [e, List.range'_concat, List.foldl_append]
  have : s + 1 * (f + 1 - s) = f + 1 := by omega
  rw [this]
  rfl

/-- An extraction reads only the symbols of its range. -/
theorem U_congr (b b' : List Bool) (s f : Nat)
    (h : ∀ i, s ≤ i → i ≤ f → b.getD i false = b'.getD i false) : U b s f = U b' s f := by
  unfold U
  have key : ∀ (l : List Nat) (r : Nat), (∀ i ∈ l, s ≤ i ∧ i ≤ f) →
      l.foldl (fun r i => 2 * r + (b.getD i false).toNat) r
        = l.foldl (fun r i => 2 * r + (b'.getD i false).toNat) r := by
    intro l
    induction l with
    | nil => intro r _; rfl
    | cons x xs ih =>
      intro r hx
      rw [List.foldl_cons, List.foldl_cons, h x (hx x (by simp)).1 (hx x (by simp)).2]
      exact ih _ fun i hi => hx i (by simp [hi])
  apply key
  intro i hi
  have := List.mem_range'_1.mp hi
  omega

end Sys2Proof.Machine
end

