-- ==== Sys2Proof/Laws/Capture.lean ====
section
/-! SUPPORT. What each step of EDGE, and TICK, can do: one lemma per shared operation, cited in place of unfolding it. -/

namespace Sys2Proof.Machine

open Sys2Proof

variable {W : Nat}

/-- The dead-zone test on this hardware is `dur > 20000` (R164). -/
theorem deadZone_hardware (d : Word W) : deadZone Config.hardware d = true ↔ 20000 < d.toNat := by
  simp [deadZone]
  omega

/-- The close test (R166). -/
theorem closes_iff (c : Config) (d w : Word W) :
    closes c d w = true ↔ (w.toNat : Int) - (c.syncMargin : Int) < (d.toNat : Int) := by
  simp [closes]

/-- Step 2 (R163): nothing, an overflow, or an append. -/
theorem edgeAppend_cases (c : Config) (d : Word W) (s : State W) :
    (s.recording = false ∧ edgeAppend c d s = s) ∨
    (s.recording = true ∧ c.cap ≤ s.len.toNat ∧
      edgeAppend c d s = (s.bufClear.setRecording false).emitStatus Status.OVERFLOW) ∨
    (s.recording = true ∧ s.len.toNat < c.cap ∧ edgeAppend c d s = s.bufAppend d) := by
  unfold edgeAppend
  cases hr : s.recording
  · simp
  · by_cases hc : c.cap ≤ s.len.toNat
    · simp [hc]
    · simp [hc]; omega

/-- Step 3 (R164): nothing, or the discard. -/
theorem edgeDeadZone_cases (c : Config) (d : Word W) (s : State W) :
    (deadZone c d = false ∧ edgeDeadZone c d s = s) ∨
    (deadZone c d = true ∧ edgeDeadZone c d s = (s.bufClear.setRecording false).emitStatus Status.DEADZONE) := by
  unfold edgeDeadZone
  cases deadZone c d <;> simp

/-- Step 4 (R165 to R168): the sync test fails or is skipped, a frame opens, the close test fails, or a frame closes. -/
theorem edgeSync_cases (c : Config) (d : Word W) (s : State W) :
    (¬ (d.toNat > c.syncTh ∧ ¬ (c.dzExclusive = true ∧ deadZone c d = true)) ∧ edgeSync c d s = s) ∨
    (d.toNat > c.syncTh ∧ s.recording = false ∧
      edgeSync c d s = ((s.setRecording true).setSyncWidth d).emitStatus Status.OPEN) ∨
    (d.toNat > c.syncTh ∧ s.recording = true ∧ closes c d s.syncWidth = false ∧ edgeSync c d s = s) ∨
    (d.toNat > c.syncTh ∧ s.recording = true ∧ closes c d s.syncWidth = true ∧ edgeSync c d s = closeFrame c s) := by
  unfold edgeSync
  by_cases h : d.toNat > c.syncTh ∧ ¬ (c.dzExclusive = true ∧ deadZone c d = true)
  · rw [if_pos h]
    cases hr : s.recording
    · exact .inr (.inl ⟨h.1, rfl, by simp⟩)
    · cases hc : closes c d s.syncWidth
      · exact .inr (.inr (.inl ⟨h.1, rfl, rfl, by simp⟩))
      · exact .inr (.inr (.inr ⟨h.1, rfl, rfl, by simp⟩))
  · rw [if_neg h]
    exact .inl ⟨h, rfl⟩

/-- On this hardware P_DZ_EXCLUSIVE is false, so step 4 is never skipped (R165). -/
theorem edgeSync_hardware_of_le {d : Word W} (s : State W) (h : d.toNat ≤ 3500) : edgeSync Config.hardware d s = s := by
  unfold edgeSync
  rw [if_neg (by simp; omega)]

/-- What closing a frame leaves of each field but the record (R166, R167). -/
theorem closeFrame_fields (c : Config) (s : State W) :
    (closeFrame c s).recording = false ∧ (closeFrame c s).len = 0#9 ∧ (closeFrame c s).buf = s.buf ∧
    (closeFrame c s).syncWidth = s.syncWidth ∧ (closeFrame c s).lastEdgeTime = s.lastEdgeTime ∧
    (closeFrame c s).input = s.input ∧ (closeFrame c s).resets = s.resets ∧ (closeFrame c s).races = s.races := by
  unfold closeFrame runDecoders
  split <;> simp

/-- A field of no step of EDGE: the port's stream and the draw counters. -/
theorem edge_port (c : Config) (t : Word W) (s : State W) :
    (edge c t s).input = s.input ∧ (edge c t s).resets = s.resets ∧ (edge c t s).races = s.races := by
  have h4 := edgeSync_cases c (interval t s.lastEdgeTime)
    (edgeDeadZone c (interval t s.lastEdgeTime)
      (edgeAppend c (interval t s.lastEdgeTime) (s.beginRecord.setLastEdgeTime t)))
  have hc := closeFrame_fields c (edgeDeadZone c (interval t s.lastEdgeTime)
      (edgeAppend c (interval t s.lastEdgeTime) (s.beginRecord.setLastEdgeTime t)))
  unfold edge
  have e3 : ∀ s' : State W, (edgeDeadZone c (interval t s.lastEdgeTime) s').input = s'.input ∧
      (edgeDeadZone c (interval t s.lastEdgeTime) s').resets = s'.resets ∧
      (edgeDeadZone c (interval t s.lastEdgeTime) s').races = s'.races := by
    intro s'
    rcases edgeDeadZone_cases c (interval t s.lastEdgeTime) s' with ⟨-, e⟩ | ⟨-, e⟩ <;> simp [e]
  have e2 : ∀ s' : State W, (edgeAppend c (interval t s.lastEdgeTime) s').input = s'.input ∧
      (edgeAppend c (interval t s.lastEdgeTime) s').resets = s'.resets ∧
      (edgeAppend c (interval t s.lastEdgeTime) s').races = s'.races := by
    intro s'
    rcases edgeAppend_cases c (interval t s.lastEdgeTime) s' with ⟨-, e⟩ | ⟨-, -, e⟩ | ⟨-, -, e⟩ <;> simp [e]
  rcases h4 with ⟨-, e⟩ | ⟨-, -, e⟩ | ⟨-, -, -, e⟩ | ⟨-, -, -, e⟩ <;> simp [e, hc, e3, e2]

/-- An overflow or a dead-zone discard, with its status bit (R163, R164). -/
abbrev State.discard (s : State W) (b : BitVec 7) : State W := (s.bufClear.setRecording false).emitStatus b

/-- A frame opened with interval `d` (R165). -/
abbrev State.opened (s : State W) (d : Word W) : State W := ((s.setRecording true).setSyncWidth d).emitStatus Status.OPEN

/-- Everything an EDGE can do on this hardware, `d` being its interval and `s1` the state after step 1. -/
theorem edge_cases (t : Word W) (s : State W) (d : Word W) (s1 : State W) (hd : d = interval t s.lastEdgeTime)
    (hs : s1 = s.beginRecord.setLastEdgeTime t) :
    (s.recording = false ∧ d.toNat ≤ 3500 ∧ edge Config.hardware t s = s1) ∨
    (s.recording = false ∧ 3500 < d.toNat ∧ d.toNat ≤ 20000 ∧ edge Config.hardware t s = s1.opened d) ∨
    (s.recording = false ∧ 20000 < d.toNat ∧
      edge Config.hardware t s = (s1.discard Status.DEADZONE).opened d) ∨
    (s.recording = true ∧ s.len.toNat < 256 ∧ d.toNat ≤ 20000 ∧
      (d.toNat ≤ 3500 ∨ closes Config.hardware d s.syncWidth = false) ∧
      edge Config.hardware t s = s1.bufAppend d) ∨
    (s.recording = true ∧ s.len.toNat < 256 ∧ 3500 < d.toNat ∧ d.toNat ≤ 20000 ∧
      closes Config.hardware d s.syncWidth = true ∧
      edge Config.hardware t s = closeFrame Config.hardware (s1.bufAppend d)) ∨
    (s.recording = true ∧ s.len.toNat < 256 ∧ 20000 < d.toNat ∧
      edge Config.hardware t s = ((s1.bufAppend d).discard Status.DEADZONE).opened d) ∨
    (s.recording = true ∧ 256 ≤ s.len.toNat ∧ d.toNat ≤ 3500 ∧
      edge Config.hardware t s = s1.discard Status.OVERFLOW) ∨
    (s.recording = true ∧ 256 ≤ s.len.toNat ∧ 3500 < d.toNat ∧ d.toNat ≤ 20000 ∧
      edge Config.hardware t s = (s1.discard Status.OVERFLOW).opened d) ∨
    (s.recording = true ∧ 256 ≤ s.len.toNat ∧ 20000 < d.toNat ∧
      edge Config.hardware t s = ((s1.discard Status.OVERFLOW).discard Status.DEADZONE).opened d) := by
  have hr1 : s1.recording = s.recording := by rw [hs]; rfl
  have hl1 : s1.len = s.len := by rw [hs]; rfl
  have hw1 : s1.syncWidth = s.syncWidth := by rw [hs]; rfl
  have he : edge Config.hardware t s =
      edgeSync Config.hardware d (edgeDeadZone Config.hardware d (edgeAppend Config.hardware d s1)) := by
    rw [hd, hs]; rfl
  -- step 3 and the skip of step 4 depend on the interval alone
  have hz : ∀ u : State W, 20000 < d.toNat → edgeDeadZone Config.hardware d u = u.discard Status.DEADZONE := by
    intro u h
    rcases edgeDeadZone_cases Config.hardware d u with ⟨h', -⟩ | ⟨-, e⟩
    · rw [(deadZone_hardware d).mpr h] at h'; cases h'
    · exact e
  have hn : ∀ u : State W, d.toNat ≤ 20000 → edgeDeadZone Config.hardware d u = u := by
    intro u h
    rcases edgeDeadZone_cases Config.hardware d u with ⟨-, e⟩ | ⟨h', -⟩
    · exact e
    · have := (deadZone_hardware d).mp h'; omega
  have ho : ∀ u : State W, 3500 < d.toNat → u.recording = false → edgeSync Config.hardware d u = u.opened d := by
    intro u h hu
    rcases edgeSync_cases Config.hardware d u with ⟨h', -⟩ | ⟨-, -, e⟩ | ⟨-, h', -⟩ | ⟨-, h', -⟩
    · exact absurd ⟨h, by simp⟩ h'
    · exact e
    · rw [hu] at h'; cases h'
    · rw [hu] at h'; cases h'
  rw [he]
  rcases edgeAppend_cases Config.hardware d s1 with ⟨hr, e⟩ | ⟨hr, hc, e⟩ | ⟨hr, hc, e⟩ <;> rw [e]
  · rw [hr1] at hr
    by_cases h1 : d.toNat ≤ 3500
    · exact .inl ⟨hr, h1, by rw [hn _ (by omega), edgeSync_hardware_of_le _ h1]⟩
    · by_cases h2 : d.toNat ≤ 20000
      · exact .inr (.inl ⟨hr, by omega, h2, by rw [hn _ h2, ho _ (by omega) (hr1.trans hr)]⟩)
      · exact .inr (.inr (.inl ⟨hr, by omega, by rw [hz _ (by omega), ho _ (by omega) rfl]⟩))
  · rw [hr1] at hr
    rw [hl1] at hc
    have hc' : 256 ≤ s.len.toNat := hc
    by_cases h1 : d.toNat ≤ 3500
    · exact .inr (.inr (.inr (.inr (.inr (.inr (.inl
        ⟨hr, hc', h1, by rw [hn _ (by omega), edgeSync_hardware_of_le _ h1]⟩))))))
    · by_cases h2 : d.toNat ≤ 20000
      · exact .inr (.inr (.inr (.inr (.inr (.inr (.inr (.inl
          ⟨hr, hc', by omega, h2, by rw [hn _ h2, ho _ (by omega) rfl]⟩)))))))
      · exact .inr (.inr (.inr (.inr (.inr (.inr (.inr (.inr
          ⟨hr, hc', by omega, by rw [hz _ (by omega), ho _ (by omega) rfl]⟩)))))))
  · have hra : (s1.bufAppend d).recording = true := hr
    rw [hr1] at hr
    rw [hl1] at hc
    have hc' : s.len.toNat < 256 := hc
    by_cases h2 : d.toNat ≤ 20000
    · rw [hn _ h2]
      rcases edgeSync_cases Config.hardware d (s1.bufAppend d) with ⟨h', e⟩ | ⟨-, h', -⟩ | ⟨-, -, h', e⟩ | ⟨h1, -, h', e⟩
      · have h1 : d.toNat ≤ 3500 := by
          by_contra hh
          exact h' ⟨by simp; omega, by simp⟩
        exact .inr (.inr (.inr (.inl ⟨hr, hc', h2, .inl h1, e⟩)))
      · rw [hra] at h'; cases h'
      · rw [State.bufAppend_syncWidth, hw1] at h'
        exact .inr (.inr (.inr (.inl ⟨hr, hc', h2, .inr h', e⟩)))
      · rw [State.bufAppend_syncWidth, hw1] at h'
        exact .inr (.inr (.inr (.inr (.inl ⟨hr, hc', h1, h2, h', e⟩))))
    · exact .inr (.inr (.inr (.inr (.inr (.inl
        ⟨hr, hc', by omega, by rw [hz _ (by omega), ho _ (by omega) rfl]⟩)))))

/-- Frame completion in its two cases (R167). -/
theorem closeFrame_cases (c : Config) (s : State W) :
    (c.minFrame < s.len.toNat ∧ closeFrame c s =
      (((((s.setRecording false).emitFrameLen s.len).emitStatus Status.FRAME).emitNexus
        (nexusDecode c s.frame)).emitAlarm (alarmDecode c s.frame)).bufClear) ∨
    (s.len.toNat ≤ c.minFrame ∧ closeFrame c s =
      (((s.setRecording false).emitFrameLen s.len).emitStatus Status.SHORT).bufClear) := by
  unfold closeFrame
  by_cases h : c.minFrame < s.len.toNat
  · exact .inl ⟨h, by simp only [if_pos h]; rfl⟩
  · exact .inr ⟨by omega, by simp only [if_neg h]⟩

/-- TICK (R175): nothing but a fresh record, or the discard. -/
theorem tick_cases (c : Config) (now : Word W) (s : State W) :
    ((interval now s.lastEdgeTime).toNat ≤ c.inact ∧ tick c now s = s.beginRecord) ∨
    (c.inact < (interval now s.lastEdgeTime).toNat ∧
      tick c now s = (s.beginRecord.bufClear.setRecording false).emitStatus Status.WATCHDOG) := by
  unfold tick
  by_cases h : (interval now s.lastEdgeTime).toNat > c.inact
  · exact .inr ⟨h, by rw [if_pos h]⟩
  · exact .inl ⟨by omega, by rw [if_neg h]⟩

end Sys2Proof.Machine
end

