-- ==== Sys2Proof/Laws/Decode.lean ====
section
/-! SUPPORT. The fields of an encoded event (R90, R102), and when the table's decoder answers. -/

namespace Sys2Proof

variable {W : Nat}

theorem opOf_append (op : Op) (t : Word W) : opOf (op ++ t : EventWord W) = op := BitVec.extractLsb'_append_eq_left

theorem timeOf_append (op : Op) (t : Word W) : timeOf (op ++ t : EventWord W) = t := BitVec.extractLsb'_append_eq_right

/-- The two fields are the whole word (R90). -/
theorem append_opOf_timeOf (w : EventWord W) : (opOf w ++ timeOf w : EventWord W) = w := by
  apply BitVec.eq_of_getLsbD_eq
  intro i hi
  unfold timeOf opOf
  rw [BitVec.getLsbD_append]
  split
  · rw [BitVec.getLsbD_extractLsb', Nat.zero_add]; simp; omega
  · rw [BitVec.getLsbD_extractLsb', Nat.add_sub_cancel' (by omega)]; simp; omega

/-- The fields of an encoded event (R90). -/
@[simp] theorem opOf_encode (i : Instr W) : opOf (encode i) = i.op := opOf_append _ _

@[simp] theorem timeOf_encode (i : Instr W) : timeOf (encode i) = i.time := timeOf_append _ _

/-! What a word decodes to, by its `op` (R91). -/

theorem decode_op00 {w : EventWord W} (h : opOf w = 0b00#2) : decode w = .idle (timeOf w) := by
  unfold decode; rw [h]; rfl

theorem decode_op01 {w : EventWord W} (h : opOf w = 0b01#2) : decode w = .edge (timeOf w) := by
  unfold decode; rw [h]; rfl

theorem decode_op10 {w : EventWord W} (h : opOf w = 0b10#2) : decode w = .tick (timeOf w) := by
  unfold decode; rw [h]; rfl

theorem decode_op11 {w : EventWord W} (h : opOf w = 0b11#2) : decode w = .rsvd (timeOf w) := by
  unfold decode; rw [h]; rfl

/-- A 2-bit field is one of four values. -/
theorem op_cases (o : Op) : o = 0b00#2 ∨ o = 0b01#2 ∨ o = 0b10#2 ∨ o = 0b11#2 := by
  revert o; decide

theorem decodeNat_lt {w : Nat} (h : w < 2 ^ 34) : decodeNat w = .ok (decode (BitVec.ofNat 34 w)) := if_pos h

theorem decodeNat_ge {w : Nat} (h : ¬ w < 2 ^ 34) : decodeNat w = .error .widerThanAnEventWord := if_neg h

end Sys2Proof
end

