-- ==== Sys2Proof/Laws/Decoders.lean ====
section
/-! SUPPORT. What each decoder answers in each case of its tests, and what its loops compute. -/

namespace Sys2Proof.Machine

open Sys2Proof

variable {W : Nat}

section Nexus

variable {c : Config} {F : Frame W}

/-- The length test failed (R212). -/
theorem nexusDecode_len (h : lenOK c F.length 2 c.nxPairs = false) :
    nexusDecode c F = { code := NexusVerdict.len.code } := if_pos h

/-- The sync pulse failed (R213). -/
theorem nexusDecode_syncPulse (h : lenOK c F.length 2 c.nxPairs = true)
    (h1 : tol c (ival F (F.length - 2)) c.nxSyncPulse = false) :
    nexusDecode c F = { code := NexusVerdict.syncPulse.code } := by
  simp only [nexusDecode, h, h1]
  rfl

/-- The sync interval failed (R213). -/
theorem nexusDecode_syncLen (h : lenOK c F.length 2 c.nxPairs = true)
    (h1 : tol c (ival F (F.length - 2)) c.nxSyncPulse = true)
    (h2 : tol c (ival F (F.length - 1)) c.nxSyncLen = false) :
    nexusDecode c F = { code := NexusVerdict.syncLen.code } := by
  simp only [nexusDecode, h, h1, h2]
  rfl

/-- A pulse failed (R214). -/
theorem nexusDecode_pulse (h : lenOK c F.length 2 c.nxPairs = true)
    (h1 : tol c (ival F (F.length - 2)) c.nxSyncPulse = true)
    (h2 : tol c (ival F (F.length - 1)) c.nxSyncLen = true) {i : Nat} (h3 : firstBadPulse c F = some i) :
    nexusDecode c F = { code := NexusVerdict.pulse.code, pair := BitVec.ofNat 6 i } := by
  simp only [nexusDecode, h, h1, h2, h3]
  rfl

/-- Every test passed: the gaps decide (R215 to R217). -/
theorem nexusDecode_gaps (h : lenOK c F.length 2 c.nxPairs = true)
    (h1 : tol c (ival F (F.length - 2)) c.nxSyncPulse = true)
    (h2 : tol c (ival F (F.length - 1)) c.nxSyncLen = true) (h3 : firstBadPulse c F = none) :
    nexusDecode c F = nexusGaps c F := by
  simp only [nexusDecode, h, h1, h2, h3]
  rfl

/-- The smallest failing pair (R214). -/
theorem firstBadPulse_eq_some (i : Nat) (hi : i < c.nxPairs) (hb : tol c (ival F (2 * i)) c.nxPulse = false)
    (hj : ∀ j, j < i → tol c (ival F (2 * j)) c.nxPulse = true) : firstBadPulse c F = some i := by
  unfold firstBadPulse
  rw [List.find?_range_eq_some]
  exact ⟨by simp [hb], by simpa using hi, fun j hji => by simp [hj j hji]⟩

/-- No pulse fails (R214). -/
theorem firstBadPulse_eq_none (h : ∀ i, i < c.nxPairs → tol c (ival F (2 * i)) c.nxPulse = true) :
    firstBadPulse c F = none := by
  unfold firstBadPulse
  rw [List.find?_eq_none]
  intro i hi
  simp [h i (List.mem_range.mp hi)]

theorem GapBits.put_some (a : GapBits) (b : Bool) : a.put (some b) = { nb := a.nb.set a.nn b, nn := a.nn + 1 } := rfl

theorem GapBits.put_none (a : GapBits) : a.put none = a := rfl

/-- Filling from any point: the classified bits follow in order, the rest stays 0 (R215). -/
theorem foldl_put (f : Nat → Option Bool) (l : List Nat) (bs : List Bool) (m : Nat) (h : l.length ≤ m) :
    l.foldl (fun (a : GapBits) i => a.put (f i)) { nb := bs ++ List.replicate m false, nn := bs.length } =
      { nb := (bs ++ l.filterMap f) ++ List.replicate (m - (l.filterMap f).length) false,
        nn := (bs ++ l.filterMap f).length } := by
  induction l generalizing bs m with
  | nil => simp
  | cons x xs ih =>
    rw [List.foldl_cons]
    cases hx : f x with
    | none =>
      rw [List.filterMap_cons_none hx]
      exact ih bs m (by simp at h; omega)
    | some b =>
      rw [List.filterMap_cons_some hx]
      obtain ⟨m', rfl⟩ : ∃ m', m = m' + 1 := ⟨m - 1, by simp at h; omega⟩
      have e : (bs ++ List.replicate (m' + 1) false).set bs.length b = (bs ++ [b]) ++ List.replicate m' false := by
        rw [List.set_append_right _ _ (by omega)]; simp [List.replicate_succ]
      have k := ih (bs ++ [b]) m' (by simp at h; omega)
      simp only [List.length_append, List.length_singleton] at k
      rw [GapBits.put_some]
      simp only [e]
      rw [k]
      simp
      omega

/-- The gap loop (R215): the bits of the classified gaps in order, then zeros. -/
theorem classifyGaps_eq (c : Config) (F : Frame W) (bits : List Bool)
    (h : bits = (List.range c.nxPairs).filterMap fun i => classifyGap c (ival F (2 * i + 1))) :
    classifyGaps c F = { nb := bits ++ List.replicate (c.nxPairs - bits.length) false, nn := bits.length } := by
  subst h
  exact foldl_put (fun i => classifyGap c (ival F (2 * i + 1))) (List.range c.nxPairs) [] c.nxPairs (by simp)

end Nexus

section Alarm

variable {c : Config} {F : Frame W}

/-- The length test failed (R252). -/
theorem alarmDecode_len (h : lenOK c F.length 1 c.alBits = false) :
    alarmDecode c F = { code := AlarmVerdict.len.code } := if_pos h

/-- The sync pulse failed (R252). -/
theorem alarmDecode_syncPulse (h : lenOK c F.length 1 c.alBits = true)
    (h1 : tol c (ival F (F.length - 2)) c.alSyncPulse = false) :
    alarmDecode c F = { code := AlarmVerdict.syncPulse.code } := by
  simp only [alarmDecode, h, h1]
  rfl

/-- The sync interval failed (R252). -/
theorem alarmDecode_syncLen (h : lenOK c F.length 1 c.alBits = true)
    (h1 : tol c (ival F (F.length - 2)) c.alSyncPulse = true)
    (h2 : tol c (ival F (F.length - 1)) c.alSyncLen = false) :
    alarmDecode c F = { code := AlarmVerdict.syncLen.code } := by
  simp only [alarmDecode, h, h1, h2]
  rfl

/-- Every test passed (R255). -/
theorem alarmDecode_event (h : lenOK c F.length 1 c.alBits = true)
    (h1 : tol c (ival F (F.length - 2)) c.alSyncPulse = true)
    (h2 : tol c (ival F (F.length - 1)) c.alSyncLen = true) : alarmDecode c F = alarmEvent c F := by
  simp only [alarmDecode, h, h1, h2]
  rfl

end Alarm

end Sys2Proof.Machine
end

