-- ==== Sys2Proof/Laws/PerInstr.lean ====
section
/-! SUPPORT. The family EncodedFields: the encoding of an event holds its op and its time, each in its field (R90). -/

namespace Sys2Proof.Laws.EncodedFields

open Sys2Proof

def Statement (i : Instr) : Prop := opOf (encode i) = i.op ∧ timeOf (encode i) = i.time

theorem idle (t : Word) : Statement (.idle t) := ⟨opOf_encode _, timeOf_encode _⟩
theorem edge (t : Word) : Statement (.edge t) := ⟨opOf_encode _, timeOf_encode _⟩
theorem tick (t : Word) : Statement (.tick t) := ⟨opOf_encode _, timeOf_encode _⟩
theorem rsvd (t : Word) : Statement (.rsvd t) := ⟨opOf_encode _, timeOf_encode _⟩

end Sys2Proof.Laws.EncodedFields
end

