-- ==== Sys2Proof/Laws/Step.lean ====
section
/-! SUPPORT. The four meanings as equations, and what the port accepts for each item of its stream. -/

namespace Sys2Proof.Machine

open Sys2Proof

variable {W : Nat}

theorem exec_idle (t : Word) (s : State) : exec (.idle t) s = .next s.beginRecord := rfl

theorem exec_edge (t : Word) (s : State) : exec (.edge t) s = .next (edge Config.hardware t s) := rfl

theorem exec_tick (t : Word) (s : State) : exec (.tick t) s = .next (tick Config.hardware t s) := rfl

theorem exec_rsvd (t : Word) (s : State) :
    exec (.rsvd t) s = .next (s.beginRecord.emitStatus Status.BADOP) := rfl

theorem accept_nil {s : State W} (h : s.input = []) : accept s = .nothing := by
  unfold accept; rw [h]

theorem accept_word {s : State W} {w : EventWord W} {rest : List (Input W)} (h : s.input = .word w :: rest) :
    accept s = .event (decode w) { s with input := rest } := by
  unfold accept; rw [h]

theorem accept_reset {s : State W} {rest : List (Input W)} (h : s.input = .reset :: rest) :
    accept s = .reset { s with input := rest } := by
  unfold accept; rw [h]

/-- Whatever the free order, one of the pair is accepted and the other stays next (R69). -/
theorem accept_both {s : State W} {te tt : Word W} {rest : List (Input W)} (h : s.input = .both te tt :: rest) :
    accept s = .event (.edge te)
      { s with input := .word (encode (.tick tt)) :: rest, races := s.races + 1 } ∨
    accept s = .event (.tick tt)
      { s with input := .word (encode (.edge te)) :: rest, races := s.races + 1 } := by
  unfold accept
  rw [h]
  cases hb : Config.edgeFirst s.races <;> simp

/-- The interval word, and its number, for an elapsed time. -/
theorem Elapsed.interval_eq {a b : Word W} {d : Nat} (h : Elapsed a b d) :
    interval a b = BitVec.ofNat W d ∧ (interval a b).toNat = d := by
  have h1 := interval_toNat a b
  refine ⟨interval_eq_of h, ?_⟩
  exact_mod_cast h1.trans h

/-- Any two times have an elapsed time, below 2^W_T. -/
theorem elapsed_interval (a b : Word W) : Elapsed a b (interval a b).toNat := (interval_toNat a b).symm

/-- `edge_cases` in terms of the elapsed time. -/
theorem edge_cases_elapsed (t : Word) (s : State) (d : Nat) (w : Word) (s1 : State)
    (h : Elapsed t s.lastEdgeTime d) (hw : w = BitVec.ofNat 32 d) (hs : s1 = s.beginRecord.setLastEdgeTime t) :
    (s.recording = false ∧ d ≤ 3500 ∧ edge Config.hardware t s = s1) ∨
    (s.recording = false ∧ 3500 < d ∧ d ≤ 20000 ∧ edge Config.hardware t s = s1.opened w) ∨
    (s.recording = false ∧ 20000 < d ∧ edge Config.hardware t s = (s1.discard Status.DEADZONE).opened w) ∨
    (s.recording = true ∧ s.len.toNat < 256 ∧ d ≤ 20000 ∧
      (d ≤ 3500 ∨ (d : Int) ≤ (s.syncWidth.toNat : Int) - 100) ∧ edge Config.hardware t s = s1.bufAppend w) ∨
    (s.recording = true ∧ s.len.toNat < 256 ∧ 3500 < d ∧ d ≤ 20000 ∧
      (s.syncWidth.toNat : Int) - 100 < (d : Int) ∧
      edge Config.hardware t s = closeFrame Config.hardware (s1.bufAppend w)) ∨
    (s.recording = true ∧ s.len.toNat < 256 ∧ 20000 < d ∧
      edge Config.hardware t s = ((s1.bufAppend w).discard Status.DEADZONE).opened w) ∨
    (s.recording = true ∧ 256 ≤ s.len.toNat ∧ d ≤ 3500 ∧
      edge Config.hardware t s = s1.discard Status.OVERFLOW) ∨
    (s.recording = true ∧ 256 ≤ s.len.toNat ∧ 3500 < d ∧ d ≤ 20000 ∧
      edge Config.hardware t s = (s1.discard Status.OVERFLOW).opened w) ∨
    (s.recording = true ∧ 256 ≤ s.len.toNat ∧ 20000 < d ∧
      edge Config.hardware t s = ((s1.discard Status.OVERFLOW).discard Status.DEADZONE).opened w) := by
  obtain ⟨e1, e2⟩ := h.interval_eq
  have hc : closes Config.hardware w s.syncWidth = true ↔ (s.syncWidth.toNat : Int) - 100 < (d : Int) := by
    rw [closes_iff, hw, ← e1, e2]; exact Iff.rfl
  have hcf : closes Config.hardware w s.syncWidth = false ↔ (d : Int) ≤ (s.syncWidth.toNat : Int) - 100 := by
    rw [Bool.eq_false_iff, Ne, hc]; omega
  have k := edge_cases t s w s1 (by rw [hw, e1]) hs
  rw [hc, hcf, hw, ← e1, e2, e1, ← hw] at k
  exact k

/-- One step of a run. -/
theorem run_succ {s a : State} (h : step s = .next a) (n : Nat) :
    Sys2Proof.core.run (n + 1) s = Sys2Proof.core.run n a := by
  have h' : Sys2Proof.core.step s = .next a := h
  simp only [Host.Core.run, h']

/-- Each event's effect on this hardware is the block's (R10). -/
theorem exec_eq_runEvent (i : Instr) (s : State) : exec i s = .next (runEvent Config.hardware i s) := by
  cases i <;> rfl

/-! What a step of the block gives for each item of its stream. -/

theorem blockStep_nil {c : Config} {s : State W} (h : s.input = []) : blockStep c s = s.noRecord := by
  unfold blockStep; rw [accept_nil h]

theorem blockStep_word {c : Config} {s : State W} {w : EventWord W} {rest : List (Input W)}
    (h : s.input = .word w :: rest) : blockStep c s = runEvent c (decode w) { s with input := rest } := by
  unfold blockStep; rw [accept_word h]

theorem blockStep_reset {c : Config} {s : State W} {rest : List (Input W)} (h : s.input = .reset :: rest) :
    blockStep c s = State.applyReset { s with input := rest } := by
  unfold blockStep; rw [accept_reset h]

end Sys2Proof.Machine
end

