-- ==== Sys2Proof/Tests/Slice0.lean ====
section
/-! SUPPORT. Tests of one step or one operation each, with expected results from 95_test_vectors.md or computed by hand
from the rules, and a witness for the hypotheses of each obligation that has any. -/

namespace Sys2Proof.Tests

open Sys2Proof Sys2Proof.Machine

/-! ### Helpers -/

/-- A state written as 95_test_vectors.md writes one: (recording, held intervals, sync_width, last_edge_time). -/
def st (recording : Bool) (held : List Nat) (sw last : Nat) : State :=
  { State.resetWith (BitVec.ofNat 32 last) with
    recording := recording
    len := BitVec.ofNat 9 held.length
    buf := held.zipIdx.map fun p => (p.2, BitVec.ofNat 32 p.1)
    syncWidth := BitVec.ofNat 32 sw }

/-- (recording, len, sync_width, last_edge_time) of a state. -/
def regs (s : State) : Bool × Nat × Nat × Nat := (s.recording, s.len.toNat, s.syncWidth.toNat, s.lastEdgeTime.toNat)

/-- valid, code, pair, nbits, id, battery, channel, temp, humidity. -/
def nxShape (x : NexusFields) : List Int :=
  [x.valid.toNat, x.code.toNat, x.pair.toNat, x.nbits.toNat, x.id.toNat, x.battery.toNat, x.channel.toNat,
    x.temp.toInt, x.humidity.toNat]

/-- valid, code, id, cmd, tri. -/
def alShape (x : AlarmFields) : List Int := [x.valid.toNat, x.code.toNat, x.id.toNat, x.cmd.toNat, x.tri.toNat]

/-- frame_len and the two decoders' fields of the last step's record, `status` apart. -/
def decoded (s : State) : List Int :=
  match s.out with
  | some o => (o.frameLen.toNat : Int) :: nxShape o.nx ++ alShape o.al
  | none => []

/-- The n binary digits of a number, most significant first. -/
def bitsOf (n w : Nat) : List Bool := (List.range n).map fun i => w.testBit (n - 1 - i)

/-- NX1 of 95_test_vectors.md §2.6. -/
def nx1 : Frame := nexusFrameOf (bitsOf 36 0b000001011001000011101011000000101111)

/-- The frame of AL-1, §2.7: its bits at the even indexes, the complement at the odd ones, then 400 and 13000. -/
def al1 : Frame :=
  ((bitsOf 24 0b000000111110100001100100).flatMap fun b =>
    [if b then 1200#32 else 400#32, if b then 400#32 else 1200#32]).set 47 400#32 ++ [13000#32]

/-- The phase-1 frame of AL-8. -/
def al8 : Frame :=
  [400#32, 400#32, 1200#32, 400#32, 1200#32, 400#32, 1200#32, 400#32, 1200#32, 400#32, 400#32, 400#32, 400#32,
    1200#32, 400#32, 1200#32] ++
  [400#32, 1200#32, 1200#32, 1200#32, 1200#32, 1200#32, 1200#32, 400#32, 1200#32, 1200#32, 400#32, 400#32, 400#32,
    400#32, 400#32, 400#32] ++
  [400#32, 400#32, 1200#32, 1200#32, 1200#32, 1200#32, 1200#32, 400#32, 1200#32, 400#32, 400#32, 1200#32, 400#32,
    400#32, 400#32, 400#32] ++ [13000#32]

/-- The letters of AL-1 in the spec's list, for the helper above. -/
theorem test_al1_is_the_list_of_the_spec : al1.map BitVec.toNat =
    [400, 1200, 400, 1200, 400, 1200, 400, 1200, 400, 1200, 400, 1200, 1200, 400, 1200, 400] ++
    [1200, 400, 1200, 400, 1200, 400, 400, 1200, 1200, 400, 400, 1200, 400, 1200, 400, 1200] ++
    [400, 1200, 1200, 400, 1200, 400, 400, 1200, 400, 1200, 1200, 400, 400, 1200, 400, 400, 13000] := by decide

/-! ### Decoding: words written out from R90 and R91 -/

theorem test_decode_idle : decode 0x000000000#34 = .idle 0#32 := by decide
theorem test_decode_edge : decode 0x1000001F4#34 = .edge 500#32 := by decide
theorem test_decode_tick : decode 0x200006D38#34 = .tick 27960#32 := by decide
theorem test_decode_rsvd : decode 0x300000000#34 = .rsvd 0#32 := by decide
/-- Every bit of `t` reaches the operand: `op` = 01, then 32 bits that are no palindrome. -/
theorem test_decode_edge_bits : decode 0b0110000000000000000000000000000011#34 = .edge 0x80000003#32 := by decide
theorem test_encode_edge : encode (.edge 500#32) = 0x1000001F4#34 := by decide
/-- A 40-bit number whose six high bits are 0 is an event word; one with a bit above 33 is none (R90, R101). -/
theorem test_decodeTableWord : decodeTableWord 40 0x2000080C0 = some (.tick 32960#32) ∧
    decodeTableWord 40 0x400000000 = none ∧ decodeTableWord 34 0x3FFFFFFFF = some (.rsvd 0xFFFFFFFF#32) := by decide
theorem test_decodeNat_rejects_by_name : (match decodeNat (2 ^ 34) with
    | .error e => decide (e = .widerThanAnEventWord)
    | .ok _ => false) = true := by decide

/-! ### WellFormed: each check refuses an ill-formed term -/

theorem test_wf_hardware : Config.hardware.wellFormed = true := by decide
theorem test_wf_cap : Config.wellFormed { Config.hardware with cap := 512 } = false := by decide
theorem test_wf_minFrame : Config.wellFormed { Config.hardware with minFrame := 256 } = false := by decide
theorem test_wf_dzLo : Config.wellFormed { Config.hardware with dzLo := 20000 } = false := by decide
theorem test_wf_syncTh : Config.wellFormed { Config.hardware with syncTh := 20000 } = false := by decide
theorem test_wf_nxPairs : Config.wellFormed { Config.hardware with nxPairs := 64 } = false := by decide
theorem test_wf_alBits : Config.wellFormed { Config.hardware with alBits := 23 } = false := by decide
theorem test_wf_nexus_range : Config.wellFormed { Config.hardware with nxPairs := 35 } = false := by decide
theorem test_wf_alarm_range : Config.wellFormed { Config.hardware with alBits := 22, alSyms := 11 } = false := by decide
theorem test_wf_timeWidth : timeWidthWellFormed 0 = false ∧ timeWidthWellFormed 32 = true := by decide
theorem test_wf_range_order : rangeWellFormed 36 24 23 = false ∧ rangeWellFormed 36 23 23 = true := by decide
theorem test_wf_range_end : rangeWellFormed 36 28 36 = false ∧ rangeWellFormed 36 28 35 = true := by decide
theorem test_wf_line : (Line.edge (2 ^ 32)).wellFormed = false ∧ (Line.tick (2 ^ 32)).wellFormed = false ∧
    (Line.rsvd (2 ^ 32)).wellFormed = false ∧ (Line.edge (2 ^ 32 - 1)).wellFormed = true := by decide
theorem test_wf_prog : (Prog.rep 2 (.line (.tick (2 ^ 32)) .done) .done).wellFormed = false := by decide

/-! ### One step of each event -/

/-- I-1. -/
theorem test_idle : exec (.idle 7#32) (st true [300] 4000 7960) =
    .next { st true [300] 4000 7960 with out := some {} } := rfl

/-- X-1. -/
theorem test_rsvd : exec (.rsvd 0#32) (st true [300] 4000 7960) =
    .next { st true [300] 4000 7960 with out := some { status := 0b1000000#7 } } := rfl

/-- T-1: `el` = INACT does not fire. -/
theorem test_tick_T1 : regs (tick Config.hardware 27960#32 (st true [1, 2, 3, 4] 4000 7960)) = (true, 4, 4000, 7960) ∧
    (tick Config.hardware 27960#32 (st true [1, 2, 3, 4] 4000 7960)).status = 0#7 := by decide

/-- T-5: it fires, across a wrap of the clock. -/
theorem test_tick_T5 :
    regs (tick Config.hardware 0x3E21#32 (st true [1, 2, 3] 4000 0xFFFFF000)) = (false, 0, 4000, 0xFFFFF000) ∧
    (tick Config.hardware 0x3E21#32 (st true [1, 2, 3] 4000 0xFFFFF000)).status = Status.WATCHDOG := by decide

/-- E-14: OVERFLOW, DEADZONE and OPEN in one event (the 256 entries are not read, so none is listed). -/
theorem test_edge_E14 :
    regs (edge Config.hardware 35000#32 { st true [] 4000 10000 with len := 256#9 }) = (true, 0, 25000, 35000) ∧
    (edge Config.hardware 35000#32 { st true [] 4000 10000 with len := 256#9 }).status =
      Status.OVERFLOW ||| Status.DEADZONE ||| Status.OPEN := by decide

/-- P1 #75: the closing sync of one Nexus frame. -/
theorem test_edge_P1 :
    regs (edge Config.hardware 77280#32 (st true ((nx1.take 73).map BitVec.toNat) 4000 73280)) =
      (false, 0, 4000, 77280) ∧
    (edge Config.hardware 77280#32 (st true ((nx1.take 73).map BitVec.toNat) 4000 73280)).status = Status.FRAME ∧
    decoded (edge Config.hardware 77280#32 (st true ((nx1.take 73).map BitVec.toNat) 4000 73280)) =
      [74, 1, 0, 0, 36, 5, 1, 2, 235, 47, 0, 1, 0, 0, 0] := by decide

/-- RACE-1, TICK first and then EDGE, and the other way round: one end state. -/
theorem test_race : regs (edge Config.hardware 27961#32 (tick Config.hardware 27961#32 (st true [1, 2, 3, 4] 4000 7960))) =
      (true, 0, 20001, 27961) ∧
    regs (tick Config.hardware 27961#32 (edge Config.hardware 27961#32 (st true [1, 2, 3, 4] 4000 7960))) =
      (true, 0, 20001, 27961) := by decide

/-- A word offered after reset is accepted and runs. -/
theorem test_fetch_after_reset : step (State.reset.withFetchWord 40 0x300000000) =
    .next { State.reset with out := some { status := 0b1000000#7 } } := rfl

/-- EDGE and TICK run as the first event after reset too, whatever the draw of `last_edge_time` is. -/
theorem test_fetch_edge_after_reset : step (State.reset.withFetchWord 40 0x1000001F4) =
    exec (.edge 500#32) State.reset := rfl
theorem test_fetch_tick_after_reset : step (State.reset.withFetchWord 40 0x200006D38) =
    exec (.tick 27960#32) State.reset := rfl

/-- W_T = 16: E-17's interval of 4096 across a wrap, by hand from R162 and R165, with the word `{01, 0F00}` of 18 bits. -/
theorem test_width_16 : decode (W := 16) 0b010000111100000000#18 = .edge 0x0F00#16 ∧
    (runEvent Config.hardware (.edge 0x0F00#16) (State.resetWith 0xFF00#16)).syncWidth = 4096#16 ∧
    (runEvent Config.hardware (.edge 0x0F00#16) (State.resetWith 0xFF00#16)).status = Status.OPEN ∧
    (State.resetWith 0xFF00#16).syncWidth = 0xFFFF#16 := by decide

/-! ### Primitives and decoders: the spec's vectors -/

/-- TOL-1 to TOL-5. -/
theorem test_tol : tol Config.hardware 361 480 = true ∧ tol Config.hardware 360 480 = false ∧
    tol Config.hardware 600 480 = false ∧ tol Config.hardware 751 1001 = true ∧
    tol Config.hardware 750 1001 = false := by decide

/-- EXT-1, EXT-3, EXT-7, EXT-8. -/
theorem test_extract : (U (bitsOf 4 0b1011) 0 3, S (bitsOf 4 0b1011) 0 3) = (11, -5) ∧
    (U (bitsOf 10 0b1000000000) 0 9, S (bitsOf 10 0b1000000000) 0 9) = (512, -512) ∧
    S (bitsOf 10 0b1111111011) 0 9 = -5 ∧ S (bitsOf 10 0b1110000101) 0 9 = -123 := by decide

/-- LNG-3, LNG-4. -/
theorem test_long : long Config.hardware 1000 = false ∧ long Config.hardware 1001 = true := by decide

/-- NX-2. -/
theorem test_nexus_NX2 :
    nxShape (nexusDecode Config.hardware (nexusFrameOf (bitsOf 36 0b110010000010001110000101000001100011))) =
      [1, 0, 0, 36, 200, 0, 3, -123, 99] := by decide

/-- NX-6. -/
theorem test_nexus_NX6 : nxShape (nexusDecode Config.hardware (nx1.set 20 600#32)) =
    [0, 4, 10, 0, 0, 0, 0, 0, 0] := by decide

/-- NX-13 and NX-14: a dropped bit under ZERO_FILL and under REJECT. -/
theorem test_nexus_NX13 : nxShape (nexusDecode Config.hardware (nx1.set 41 1400#32)) =
      [1, 0, 0, 35, 5, 1, 2, 230, 94] ∧
    nxShape (nexusDecode { Config.hardware with nexusShort := .reject } (nx1.set 41 1400#32)) =
      [0, 5, 0, 35, 0, 0, 0, 0, 0] := by decide

/-- NX-18: LEN under EXACT, the reading of NX-1 under FLOOR. -/
theorem test_nexus_NX18 : nxShape (nexusDecode Config.hardware (nx1.take 72 ++ [777#32] ++ nx1.drop 72)) =
      [0, 1, 0, 0, 0, 0, 0, 0, 0] ∧
    nxShape (nexusDecode { Config.hardware with lenDiv := .floor } (nx1.take 72 ++ [777#32] ++ nx1.drop 72)) =
      [1, 0, 0, 36, 5, 1, 2, 235, 47] := by decide

/-- AL-1. -/
theorem test_alarm_AL1 : alShape (alarmDecode Config.hardware al1) = [1, 0, 1000, 100, 0x03E864] := by decide

/-- AL-3 and AL-4. -/
theorem test_alarm_AL3 : alShape (alarmDecode Config.hardware (al1.set 0 1001#32)) = [1, 0, 33768, 100, 0x83E864] ∧
    alShape (alarmDecode Config.hardware (al1.set 47 500#32)) = [0, 2, 0, 0, 0] := by decide

/-- AL-8 and AL-9: §8 item 7 under the other bit phase. -/
theorem test_alarm_AL8 :
    alShape (alarmDecode { Config.hardware with alarmPhase := 1 } al8) = [1, 0, 1000, 100, 0x787878] ∧
    alShape (alarmDecode Config.hardware al8) = [1, 0, 30840, 120, 0x787878] := by decide

/-! ### The publisher boundary and event programs -/

/-- §8 item 6: topic `temp/5/2`, temperature 23.5. -/
theorem test_publish_nexus : ((nexusMessage { nx := nexusDecode Config.hardware nx1 }).map fun m =>
    (m.topic, m.battery, m.temperature.num, m.temperature.den, m.humidity)) =
    some (['t', 'e', 'm', 'p', '/', '5', '/', '2'], 1, 47, 2, 47) := by decide

/-- AL-1: topic `alarm/1000`, tri `00011XX0ZXZ0`. -/
theorem test_publish_alarm : (alarmMessage { al := alarmDecode Config.hardware al1 }).map (fun m => (m.topic, m.tri)) =
    some (['a', 'l', 'a', 'r', 'm', '/', '1', '0', '0', '0'],
      ['0', '0', '0', '1', '1', 'X', 'X', '0', 'Z', 'X', 'Z', '0']) := by decide

/-- R104: `EDGE 500` is `1000001F4`. -/
theorem test_wordHex : wordHex (encode (.edge 500#32)) = ['1', '0', '0', '0', '0', '0', '1', 'F', '4'] := by decide

/-- P3 from #0: `EDGE 4000`, two intervals, `WAIT 25000`. -/
theorem test_expand : ((Prog.line (.edge 4000) (.line (.ivs [480, 1000]) (.line (.wait 25000) .done))).expand 0#32).1 =
    [.word 0x100000FA0#34, .word 0x100001180#34, .word 0x100001568#34, .word 0x200007710#34] := by decide

/-- R104, R105: `.start` with a hexadecimal time, a comment, `REP` around `IV`. The characters 123 and 125 are braces. -/
theorem test_parse : parseProgram
      (['.', 's', 't', 'a', 'r', 't', ' ', 'l', 'e', 'n', '=', '0', 'x', '1', 'F', '\n'] ++
       ['E', 'D', 'G', 'E', ' ', '5', '0', ';', '!', '\n', 'R', 'E', 'P', ' ', '3', ' ', Char.ofNat 123] ++
       [' ', 'I', 'V', ' ', '7', ' ', Char.ofNat 125]) =
    some ({ len := some 31#9 }, .line (.edge 50) (.rep 3 (.line (.ivs [7]) .done) .done)) := by decide

/-! ### Witnesses: each obligation's hypotheses are met together, each clause at a boundary -/

/-- A number of microseconds between two times written as numerals. -/
theorem elapsed_of {a b : Word} {d : Nat} (h : ((a.toNat : Int) - (b.toNat : Int)) % 2 ^ 32 = (d : Int)) :
    Elapsed a b d := h

theorem witness_OpFieldSelectsTheEvent :
    (0x0FFFFFFFF#34).toNat / 2 ^ 32 = 0 ∧ (0x100000000#34).toNat / 2 ^ 32 = 1 ∧ (0x1FFFFFFFF#34).toNat / 2 ^ 32 = 1 ∧
    (0x200000000#34).toNat / 2 ^ 32 = 2 ∧ (0x3FFFFFFFF#34).toNat / 2 ^ 32 = 3 := by decide

theorem witness_DecodeEncodeAllEvents : (Instr.rsvd 0xFFFFFFFF#32).wellFormed = true := by decide

theorem witness_OneOpcodeRowPerWord : (∃ r, opcodeTable[0]? = some r ∧ r.holds 0x0FFFFFFFF#34 = true) ∧
    (∃ r, opcodeTable[3]? = some r ∧ r.holds 0x300000000#34 = true) := ⟨⟨_, rfl, by decide⟩, ⟨_, rfl, by decide⟩⟩

theorem witness_TableWordsDecodeOrAreRejected :
    0x3FFFFFFFF % 2 ^ 34 < 2 ^ 34 ∧ 0x3FFFFFFFF % 2 ^ 40 < 2 ^ 34 ∧ 2 ^ 34 ≤ 0x400000000 % 2 ^ 40 := by decide

theorem witness_StepRunsTheDecodedEvent : ∃ s : State, ∃ w rest, s.input = .word w :: rest :=
  ⟨{ st true [300] 4000 7960 with input := [.word 0x200006D39#34, .reset] }, _, _, rfl⟩

theorem witness_ResetGivesTheResetState : ∃ s : State, ∃ rest, s.input = .reset :: rest ∧ s.recording = true :=
  ⟨{ st true [300] 4000 7960 with input := [.reset, .word 0#34] }, _, rfl, rfl⟩

theorem witness_SimultaneousPairRunsInEitherOrder : ∃ s : State, ∃ te tt rest, s.input = .both te tt :: rest :=
  ⟨{ st true [300] 4000 7960 with input := [.both 27961#32 27961#32] }, _, _, _, rfl⟩

theorem witness_EmptyPortAcceptsNothing : (st true [300] 4000 7960).input = [] := rfl

theorem witness_op_fields : (0x0FFFFFFFF#34).toNat / 2 ^ 32 = 0 ∧ (0x2FFFFFFFF#34).toNat / 2 ^ 32 = 2 ∧
    (0x300000000#34).toNat / 2 ^ 32 = 3 := by decide

/-- Both clauses, at 20000 and at 20001 microseconds. -/
theorem witness_TickDiscardsAStaleCapture :
    (Elapsed 27960#32 (st true [300] 4000 7960).lastEdgeTime 20000 ∧ 20000 ≤ 20000) ∧
    (Elapsed 27961#32 (st true [300] 4000 7960).lastEdgeTime 20001 ∧ 20000 < 20001) :=
  ⟨⟨elapsed_of (by decide), by decide⟩, ⟨elapsed_of (by decide), by decide⟩⟩

theorem witness_OnlyEdgeWritesTheCaptureRegisters : ∃ a b c,
    exec (.idle 5#32) (st true [300] 4000 7960) = .next a ∧ exec (.tick 5#32) (st true [300] 4000 7960) = .next b ∧
    exec (.rsvd 5#32) (st true [300] 4000 7960) = .next c := ⟨_, _, _, rfl, rfl, rfl⟩

theorem witness_EdgeOutsideAFrame : Elapsed 3500#32 (st false [] 4000 0).lastEdgeTime 3500 ∧
    (st false [] 4000 0).recording = false ∧ 3500 ≤ 3500 := ⟨elapsed_of (by decide), rfl, by decide⟩

theorem witness_EdgeOpensAFrame :
    (Elapsed 3501#32 (st false [] 4000 0).lastEdgeTime 3501 ∧ (st false [] 4000 0).recording = false ∧
      3500 < 3501 ∧ 3501 ≤ 20000) ∧
    (Elapsed 20000#32 (st false [] 4000 0).lastEdgeTime 20000 ∧ 3500 < 20000 ∧ 20000 ≤ 20000) :=
  ⟨⟨elapsed_of (by decide), rfl, by decide, by decide⟩, ⟨elapsed_of (by decide), by decide, by decide⟩⟩

/-- The three clauses: not recording, recording with room (255 held), recording with a full buffer. -/
theorem witness_EdgeInTheDeadZoneReopens :
    (Elapsed 20001#32 0#32 20001 ∧ 20000 < 20001) ∧ (st false [] 4000 0).recording = false ∧
    (State.recording { st true [] 4000 0 with len := 255#9 } = true ∧
      (State.len { st true [] 4000 0 with len := 255#9 }).toNat < 256) ∧
    (State.recording { st true [] 4000 0 with len := 256#9 } = true ∧
      256 ≤ (State.len { st true [] 4000 0 with len := 256#9 }).toNat) :=
  ⟨⟨elapsed_of (by decide), by decide⟩, rfl, ⟨rfl, by decide⟩, ⟨rfl, by decide⟩⟩

/-- E-7's candidate, at the close margin exactly, and an interval of exactly 3500 with 255 held. -/
theorem witness_EdgeStoresAnInterval :
    (Elapsed 13900#32 (st true [300] 4000 10000).lastEdgeTime 3900 ∧ (st true [300] 4000 10000).recording = true ∧
      (st true [300] 4000 10000).len.toNat < 256 ∧ 3900 ≤ 20000 ∧
      ((3900 : Nat) : Int) ≤ ((st true [300] 4000 10000).syncWidth.toNat : Int) - 100) ∧
    (Elapsed 13500#32 (st true [] 4000 10000).lastEdgeTime 3500 ∧
      (State.len { st true [] 4000 10000 with len := 255#9 }).toNat < 256 ∧ 3500 ≤ 3500) :=
  ⟨⟨elapsed_of (by decide), rfl, by decide, by decide, by decide⟩, ⟨elapsed_of (by decide), by decide, by decide⟩⟩

/-- E-12's and E-13's states, at 3500 and at 3501 and 20000 microseconds. -/
theorem witness_EdgeOverflowDiscards :
    (State.recording { st true [] 4000 10000 with len := 256#9 } = true ∧
      256 ≤ (State.len { st true [] 4000 10000 with len := 256#9 }).toNat) ∧
    (Elapsed 13500#32 10000#32 3500 ∧ 3500 ≤ 3500) ∧ (Elapsed 13501#32 10000#32 3501 ∧ 3500 < 3501 ∧ 3501 ≤ 20000) ∧
    (Elapsed 30000#32 10000#32 20000 ∧ 20000 ≤ 20000) :=
  ⟨⟨rfl, by decide⟩, ⟨elapsed_of (by decide), by decide⟩, ⟨elapsed_of (by decide), by decide, by decide⟩,
    ⟨elapsed_of (by decide), by decide⟩⟩

/-- E-16: 31 held. -/
theorem witness_EdgeClosesAShortFrame :
    Elapsed 14000#32 (st true (List.replicate 31 300) 4000 10000).lastEdgeTime 4000 ∧
    (st true (List.replicate 31 300) 4000 10000).recording = true ∧
    (st true (List.replicate 31 300) 4000 10000).len.toNat + 1 ≤ 32 ∧ 3500 < 4000 ∧ 4000 ≤ 20000 ∧
    ((st true (List.replicate 31 300) 4000 10000).syncWidth.toNat : Int) - 100 < ((4000 : Nat) : Int) :=
  ⟨elapsed_of (by decide), rfl, by decide, by decide, by decide, by decide⟩

/-- E-15: 32 held; and 255 held. -/
theorem witness_EdgeCompletesAFrame :
    (Elapsed 14000#32 (st true (List.replicate 32 300) 4000 10000).lastEdgeTime 4000 ∧
      (st true (List.replicate 32 300) 4000 10000).recording = true ∧
      32 < (st true (List.replicate 32 300) 4000 10000).len.toNat + 1 ∧
      (st true (List.replicate 32 300) 4000 10000).len.toNat < 256 ∧ 3500 < 4000 ∧ 4000 ≤ 20000 ∧
      ((st true (List.replicate 32 300) 4000 10000).syncWidth.toNat : Int) - 100 < ((4000 : Nat) : Int)) ∧
    (32 < (State.len { st true [] 4000 10000 with len := 255#9 }).toNat + 1 ∧
      (State.len { st true [] 4000 10000 with len := 255#9 }).toNat < 256) :=
  ⟨⟨elapsed_of (by decide), rfl, by decide, by decide, by decide, by decide, by decide⟩, by decide, by decide⟩

/-- One EDGE that stores and one that opens nothing, both with a next state. -/
theorem witness_EdgeChangesOneEntryAtMost : ∃ s', exec (.edge 10480#32) (st true [300, 300] 4000 10000) = .next s' ∧
    s'.status &&& 0b0000001#7 = 0#7 ∧ ¬ (1 = (st true [300, 300] 4000 10000).len.toNat) := ⟨_, rfl, by decide, by decide⟩

theorem witness_ExclusiveDeadZoneOpensNothing :
    Elapsed 30001#32 (st true [300, 300] 4000 10000).lastEdgeTime 20001 ∧ 20000 < 20001 :=
  ⟨elapsed_of (by decide), by decide⟩

/-- A recording state with two entries that meets every invariant. -/
theorem inv_two_held : (st true [300, 3600] 4000 10000).Inv where
  i1 := by decide
  i2 := by decide
  i3 := by decide
  i4 := by decide
  buf := ⟨by decide, by decide, by decide⟩

theorem witness_EveryStepKeepsTheInvariants : ∃ s', (st true [300, 3600] 4000 10000).Inv ∧
    step (st true [300, 3600] 4000 10000) = .next s' := ⟨_, inv_two_held, rfl⟩

theorem witness_NoRunIsEverTorn : ∃ s', (st true [300, 3600] 4000 10000).Inv ∧
    Sys2Proof.core.run 2 (st true [300, 3600] 4000 10000) = .next s' := ⟨_, inv_two_held, rfl⟩

/-- E-15's state meets the invariants, and its EDGE completes a frame. -/
theorem witness_CompletedFrameBounds : ∃ s', (st true (List.replicate 32 300) 4000 10000).Inv ∧
    exec (.edge 14000#32) (st true (List.replicate 32 300) 4000 10000) = .next s' ∧ s'.status &&& 0b0000010#7 ≠ 0#7 :=
  ⟨_, { i1 := by decide, i2 := by decide, i3 := by decide, i4 := by decide,
        buf := ⟨by decide, by decide, by decide⟩ }, rfl, by decide⟩

/-- P10's frame, with an interval of exactly INACT and room for it. -/
theorem witness_LongSyncFrameNeverCloses : (st true [300] 20101 40101).recording = true ∧
    20100 < (st true [300] 20101 40101).syncWidth.toNat ∧
    Elapsed 60101#32 (st true [300] 20101 40101).lastEdgeTime 20000 ∧
    (st true [300] 20101 40101).len.toNat < 256 ∧ 20000 ≤ 20000 :=
  ⟨rfl, by decide, elapsed_of (by decide), by decide, by decide⟩

/-- Two states that differ in `sync_width` outside a frame, in an entry above `len` and in the old record. -/
theorem witness_UnobservableStateIsNeverObserved : ∃ a',
    (st false [] 4000 10000).ObsEq { st false [] 5000 10000 with buf := [(3, 7#32)], out := some {} } ∧
    step (st false [] 4000 10000) = .next a' :=
  ⟨_, ⟨rfl, rfl, by decide, by decide, rfl, rfl, rfl, rfl⟩, rfl⟩

theorem witness_WatchdogIsRedundantForFrames : Elapsed 27961#32 (st true [300] 4000 7960).lastEdgeTime 20001 ∧
    Elapsed 27961#32 (st true [300] 4000 7960).lastEdgeTime 20001 ∧ 20000 < 20001 ∧ 20001 ≤ 20001 :=
  ⟨elapsed_of (by decide), elapsed_of (by decide), by decide, by decide⟩

/-- The temperature's range, and the one-symbol range at the end of a sequence; for both extractor statements. -/
theorem witness_extraction_ranges : (14 ≤ 23 ∧ 23 < (bitsOf 36 1).length) ∧ (35 ≤ 35 ∧ 35 < (bitsOf 36 1).length) := by
  decide

theorem witness_ExtractorsRefuseRangesOutside : (23 < 24) ∧ ((bitsOf 36 1).length ≤ 36) ∧
    (0 ≤ 35 ∧ 35 < (bitsOf 36 1).length) := by decide

theorem witness_ThresholdIsStrict : 1000 < 1001 ∧ 1000 ≤ 1000 := by decide

/-- One frame for each clause, each test failing at its boundary. -/
theorem witness_NexusRejectsLengthAndSync : (nx1.take 73).length ≠ 74 ∧
    ((nx1.set 72 625#32).length = 74 ∧ ¬ (375 < ival (nx1.set 72 625#32) 72 ∧ ival (nx1.set 72 625#32) 72 < 625)) ∧
    ((nx1.set 73 3000#32).length = 74 ∧ 375 < ival (nx1.set 73 3000#32) 72 ∧ ival (nx1.set 73 3000#32) 72 < 625 ∧
      ¬ (3000 < ival (nx1.set 73 3000#32) 73 ∧ ival (nx1.set 73 3000#32) 73 < 5000)) := by decide

/-- NX-1's frame. -/
theorem shaped_nx1 : NexusShaped nx1 := ⟨by decide, by decide, by decide, by decide⟩

/-- NX-6's frame, whose pulse 10 fails at the upper boundary; and an accepted frame for the other clause. -/
theorem witness_NexusRejectsTheFirstBadPulse : NexusShaped nx1 ∧
    ((nx1.set 20 600#32).length = 74 ∧ 375 < ival (nx1.set 20 600#32) 72 ∧ ival (nx1.set 20 600#32) 72 < 625 ∧
      3000 < ival (nx1.set 20 600#32) 73 ∧ ival (nx1.set 20 600#32) 73 < 5000 ∧ 10 < 36 ∧
      ¬ (360 < ival (nx1.set 20 600#32) (2 * 10) ∧ ival (nx1.set 20 600#32) (2 * 10) < 600)) ∧
    (∀ j, j < 10 → 360 < ival (nx1.set 20 600#32) (2 * j) ∧ ival (nx1.set 20 600#32) (2 * j) < 600) :=
  ⟨shaped_nx1, by decide, by decide⟩

theorem witness_NexusReadingOfAnAcceptedFrame : ∃ x, NexusShaped nx1 ∧ nexusDecode Config.hardware nx1 = x :=
  ⟨_, shaped_nx1, rfl⟩

theorem witness_NexusRoundTripOfEveryBitSequence :
    (bitsOf 36 5).length = 36 ∧ ∃ x, nexusDecode Config.hardware (nexusFrameOf (bitsOf 36 5)) = x := ⟨by decide, _, rfl⟩

/-- NX-13's frame has 35 bits, NX-1's 36. -/
theorem witness_NexusShortCountParameter :
    (NexusShaped (nx1.set 41 1400#32) ∧ (gapBitsOf (nx1.set 41 1400#32)).length < 36) ∧
    (NexusShaped nx1 ∧ (gapBitsOf nx1).length = 36) :=
  ⟨⟨⟨by decide, by decide, by decide, by decide⟩, by decide⟩, shaped_nx1, by decide⟩

/-- Two bit vectors that differ at position 9. -/
theorem witness_NexusIgnoresSevenPositions : (bitsOf 36 5).length = 36 ∧ ((bitsOf 36 5).set 9 true).length = 36 ∧
    (∀ i, i < 36 → i ∉ [9, 12, 13, 24, 25, 26, 27] →
      (bitsOf 36 5).getD i false = ((bitsOf 36 5).set 9 true).getD i false) ∧
    bitsOf 36 5 ≠ (bitsOf 36 5).set 9 true := by decide

/-- One frame for each clause, each test failing at its boundary. -/
theorem witness_AlarmRejectsLengthAndSync : (al1.take 48).length ≠ 49 ∧
    ((al1.set 47 300#32).length = 49 ∧ ¬ (300 < ival (al1.set 47 300#32) 47 ∧ ival (al1.set 47 300#32) 47 < 500)) ∧
    ((al1.set 48 16250#32).length = 49 ∧ 300 < ival (al1.set 48 16250#32) 47 ∧ ival (al1.set 48 16250#32) 47 < 500 ∧
      ¬ (9750 < ival (al1.set 48 16250#32) 48 ∧ ival (al1.set 48 16250#32) 48 < 16250)) := by decide

/-- AL-1's frame, and the frame of AL-8. -/
theorem shaped_al1 : AlarmShaped al1 := ⟨by decide, by decide, by decide⟩

theorem witness_AlarmEventOfAnAcceptedFrame : ∃ x, AlarmShaped al1 ∧ alarmDecode Config.hardware al1 = x ∧ 11 < 12 :=
  ⟨_, shaped_al1, rfl, by decide⟩

/-- Two frames that differ at index 45, below the sync pair. -/
theorem witness_AlarmIgnoresOddIntervals : al1.length = (al1.set 45 7#32).length ∧
    (∀ i, i < al1.length → (i % 2 = 0 ∨ 47 ≤ i) → al1[i]? = (al1.set 45 7#32)[i]?) ∧ al1 ≠ al1.set 45 7#32 := by decide

theorem witness_AlarmBitPhaseOneReadsOddIntervals : ∃ x, AlarmShaped al8 ∧
    alarmDecode { Config.hardware with alarmPhase := 1 } al8 = x := ⟨_, ⟨by decide, by decide, by decide⟩, rfl⟩

theorem witness_FloorIgnoresTheExtraInterval : (nx1.take 72).length = 72 ∧ (al1.take 47).length = 47 := by decide

/-- W_T = 16: TICK at the boundary, across a wrap, and a RESET that is next at the port. -/
theorem witness_EventsAtEveryTimestampWidth :
    (Elapsed 0x4D20#16 0xFF00#16 20000 ∧ 20000 ≤ Config.hardware.inact) ∧
    (Elapsed 0x4D21#16 0xFF00#16 20001 ∧ Config.hardware.inact < 20001) ∧
    ∃ s : State 16, ∃ rest, s.input = .reset :: rest :=
  ⟨⟨by unfold Elapsed; decide, by decide⟩, ⟨by unfold Elapsed; decide, by decide⟩,
    { State.resetWith 0#16 with input := [.reset] }, _, rfl⟩

theorem witness_PublishedTriSpellsTheSymbols : AlarmShaped al1 := shaped_al1

end Sys2Proof.Tests
end

section
/-! SUPPORT and O2. The two fields of an event word as numbers (R102), and the event its `op` selects (R91). -/

namespace Sys2Proof

variable {W : Nat}

/-- `op` as a number: the two bits above `t` (R102). -/
theorem toNat_opOf (w : EventWord W) : (opOf w).toNat = w.toNat / 2 ^ W := by
  have hw : w.toNat / 2 ^ W < 2 ^ 2 := Nat.div_lt_of_lt_mul (by rw [Nat.mul_comm, ← Nat.pow_add]; exact w.isLt)
  rw [opOf, BitVec.extractLsb'_toNat, Nat.shiftRight_eq_div_pow, Nat.mod_eq_of_lt hw]

theorem opOf_eq_iff (w : EventWord W) (o : Op) : opOf w = o ↔ w.toNat / 2 ^ W = o.toNat := by
  rw [← BitVec.toNat_inj, toNat_opOf]

/-- `t` as a number: the low W_T bits of the word (R102). -/
theorem timeOf_eq_ofNat (w : EventWord W) : timeOf w = BitVec.ofNat W (w.toNat % 2 ^ W) := by
  apply BitVec.eq_of_toNat_eq
  rw [timeOf, BitVec.extractLsb'_toNat, Nat.shiftRight_zero, BitVec.toNat_ofNat, Nat.mod_mod]

/-- Settles O2: the number above bit 31 is `op`, so each of its four values picks one branch of the decoder. -/
theorem opFieldSelectsTheEvent : Obligations.OpFieldSelectsTheEvent := by
  unfold Obligations.OpFieldSelectsTheEvent
  intro w
  rw [← timeOf_eq_ofNat w]
  refine ⟨fun h => ?idle, fun h => ?edge, fun h => ?tick, fun h => ?rsvd, ?total⟩
  case idle => exact decode_op00 ((opOf_eq_iff w _).2 h)
  case edge => exact decode_op01 ((opOf_eq_iff w _).2 h)
  case tick => exact decode_op10 ((opOf_eq_iff w _).2 h)
  case rsvd => exact decode_op11 ((opOf_eq_iff w _).2 h)
  case total => exact toNat_opOf w ▸ (opOf w).isLt

end Sys2Proof
end

section
/-! SUPPORT, O36, O38 and O41. The tolerance window over the rationals (R130), the unsigned extractor as a weighted sum
(R133), and the strict threshold (R136). -/

namespace Sys2Proof.Machine

open Sys2Proof

/-- Settles O36: multiplying each bound by 4 gives the comparison over the naturals that the block makes (D8). -/
theorem toleranceIsTheOpenWindow : Obligations.ToleranceIsTheOpenWindow := by
  unfold Obligations.ToleranceIsTheOpenWindow
  intro v n
  have lower : (3 / 4 : ℚ) * n < v ↔ 3 * n < 4 * v := by
    rw [← Nat.cast_lt (α := ℚ)]
    push_cast
    constructor <;> intro h <;> linarith
  have upper : (v : ℚ) < (5 / 4 : ℚ) * n ↔ 4 * v < 5 * n := by
    rw [← Nat.cast_lt (α := ℚ)]
    push_cast
    constructor <;> intro h <;> linarith
  rw [tol_hardware, lower, upper]

/-- `U` as a big-endian number (R133): a further symbol doubles every earlier weight and itself weighs 1. -/
theorem U_eq_sum (b : List Bool) {s f : Nat} (h : s ≤ f) :
    U b s f = ∑ i ∈ Finset.Icc s f, (b.getD i false).toNat * 2 ^ (f - i) := by
  induction f, h using Nat.le_induction with
  | base => simp [U_self]
  | succ f hsf ih =>
    have doubled : ∑ i ∈ Finset.Icc s f, (b.getD i false).toNat * 2 ^ (f + 1 - i) = 2 * U b s f := by
      rw [ih, Finset.mul_sum]
      refine Finset.sum_congr rfl fun i hi => ?_
      rw [Nat.succ_sub (Finset.mem_Icc.mp hi).2, pow_succ]
      ring
    rw [U_succ b s f hsf, Finset.sum_Icc_succ_top (by omega), doubled, Nat.sub_self, pow_zero, mul_one]

/-- An extraction of `f - s + 1` symbols has as many bits. -/
theorem U_lt_two_pow (b : List Bool) {s f : Nat} (h : s ≤ f) : U b s f < 2 ^ (f - s + 1) := by
  induction f, h using Nat.le_induction with
  | base =>
    rw [U_self, Nat.sub_self]
    exact Bool.toNat_lt _
  | succ f hsf ih =>
    have bit := Bool.toNat_lt (b.getD (f + 1) false)
    rw [U_succ b s f hsf, Nat.succ_sub hsf, pow_succ]
    omega

/-- Settles O38: both parts follow the symbols shifted in from the left; they hold past the sequence's end too. -/
theorem unsignedExtractionIsBigEndian : Obligations.UnsignedExtractionIsBigEndian := by
  unfold Obligations.UnsignedExtractionIsBigEndian
  intro b s f hsf _
  exact ⟨U_eq_sum b hsf, U_lt_two_pow b hsf⟩

/-- Settles O41: the classifier decides `1000 < x`, which fails at the tie (D12). -/
theorem thresholdIsStrict : Obligations.ThresholdIsStrict := by
  unfold Obligations.ThresholdIsStrict
  intro x
  rw [long_hardware]
  exact ⟨decide_eq_true, fun h => decide_eq_false (Nat.not_lt.mpr h)⟩

end Sys2Proof.Machine
end

section
/-! SUPPORT, O13, O14, O15 and O17. The `t` field as the word's low bits, the first status bit of a fresh record, TICK's
two cases as equations, and that no later step of EDGE writes `last_edge_time`. -/

namespace Sys2Proof.Machine

open Sys2Proof

variable {W : Nat}

/-- `t` is the word's number cut to W_T bits (R102): a `BitVec` drops the bits above by itself. -/
theorem timeOf_eq_ofNat_toNat (w : EventWord W) : timeOf w = BitVec.ofNat W w.toNat := by
  rw [timeOf_eq_ofNat]
  exact BitVec.eq_of_toNat_eq (by simp)

/-- A status bit set in an all-zero record is the whole record (R95, R96). -/
theorem State.emitStatus_of_zeroRecord {s : State W} (h : s.out = some {}) (b : BitVec 7) :
    s.emitStatus b = { s with out := some { status := b } } := by
  unfold State.emitStatus State.emit
  rw [h]
  simp

/-- TICK up to INACT after the last edge does nothing (R175). -/
theorem tick_of_le_inact {c : Config} {now : Word W} {s : State W}
    (h : (interval now s.lastEdgeTime).toNat ≤ c.inact) : tick c now s = { s with out := some {} } := by
  rcases tick_cases c now s with ⟨-, e⟩ | ⟨h', -⟩
  · exact e
  · exact absurd h (Nat.not_le.mpr h')

/-- TICK past INACT discards the capture (R175). -/
theorem tick_of_inact_lt {c : Config} {now : Word W} {s : State W}
    (h : c.inact < (interval now s.lastEdgeTime).toNat) :
    tick c now s = { s with recording := false, len := 0#9, out := some { status := Status.WATCHDOG } } := by
  rcases tick_cases c now s with ⟨h', -⟩ | ⟨-, e⟩
  · exact absurd h (Nat.not_lt.mpr h')
  · exact e.trans (State.emitStatus_of_zeroRecord rfl _)

/-! Steps 2 to 4 leave `last_edge_time` as step 1 set it (R162). -/

@[simp] theorem edgeAppend_lastEdgeTime (c : Config) (d : Word W) (s : State W) :
    (edgeAppend c d s).lastEdgeTime = s.lastEdgeTime := by
  rcases edgeAppend_cases c d s with ⟨-, e⟩ | ⟨-, -, e⟩ | ⟨-, -, e⟩ <;> simp [e]

@[simp] theorem edgeDeadZone_lastEdgeTime (c : Config) (d : Word W) (s : State W) :
    (edgeDeadZone c d s).lastEdgeTime = s.lastEdgeTime := by
  rcases edgeDeadZone_cases c d s with ⟨-, e⟩ | ⟨-, e⟩ <;> simp [e]

@[simp] theorem closeFrame_lastEdgeTime (c : Config) (s : State W) :
    (closeFrame c s).lastEdgeTime = s.lastEdgeTime := by
  obtain ⟨-, -, -, -, hlast, -⟩ := closeFrame_fields c s
  exact hlast

@[simp] theorem edgeSync_lastEdgeTime (c : Config) (d : Word W) (s : State W) :
    (edgeSync c d s).lastEdgeTime = s.lastEdgeTime := by
  rcases edgeSync_cases c d s with ⟨-, e⟩ | ⟨-, -, e⟩ | ⟨-, -, -, e⟩ | ⟨-, -, -, e⟩ <;> simp [e]

/-- EDGE latches its time, whatever its later steps do (R162). -/
@[simp] theorem edge_lastEdgeTime (c : Config) (t : Word W) (s : State W) : (edge c t s).lastEdgeTime = t := by
  simp [edge]

/-- Settles O13: IDLE only begins a record (R176). -/
theorem idleLeavesTheStateUnchanged : Obligations.IdleLeavesTheStateUnchanged := by
  unfold Obligations.IdleLeavesTheStateUnchanged
  refine ⟨fun w h => ?decoded, fun t s => exec_idle t s⟩
  case decoded =>
    rw [← timeOf_eq_ofNat_toNat]
    exact decode_op00 ((opOf_eq_iff w _).2 h)

/-- Settles O14: BADOP is the only bit set in the fresh record (R177). -/
theorem reservedOpOnlyReportsBadOp : Obligations.ReservedOpOnlyReportsBadOp := by
  unfold Obligations.ReservedOpOnlyReportsBadOp
  refine ⟨fun w h => ?decoded, fun t s => ?executed⟩
  case decoded =>
    rw [← timeOf_eq_ofNat_toNat]
    exact decode_op11 ((opOf_eq_iff w _).2 h)
  case executed =>
    rw [exec_rsvd, State.emitStatus_of_zeroRecord s.beginRecord_out]
    rfl

/-- Settles O15: the elapsed time is the number TICK compares with INACT = 20000. -/
theorem tickDiscardsAStaleCapture : Obligations.TickDiscardsAStaleCapture := by
  unfold Obligations.TickDiscardsAStaleCapture
  refine ⟨fun w h => ?decoded, fun now s el hel => ?executed⟩
  case decoded =>
    rw [← timeOf_eq_ofNat_toNat]
    exact decode_op10 ((opOf_eq_iff w _).2 h)
  case executed =>
    obtain ⟨-, rfl⟩ := hel.interval_eq
    rw [exec_tick]
    constructor <;> intro h
    · rw [tick_of_le_inact h]
    · rw [tick_of_inact_lt h]

/-- Settles O17: the interval is the modular difference, and no step after the first writes `last_edge_time`. -/
theorem edgeMeasuresThenLatchesItsTime : Obligations.EdgeMeasuresThenLatchesItsTime := by
  unfold Obligations.EdgeMeasuresThenLatchesItsTime
  intro t s
  refine ⟨⟨_, exec_edge t s, edge_lastEdgeTime _ t s⟩, interval t s.lastEdgeTime, elapsed_interval t s.lastEdgeTime, ?_⟩
  exact exec_edge t s

end Sys2Proof.Machine
end

section
/-! SUPPORT, O44 and O48. The windows of R132 from the comparator of R130, a frame of 74 past its first three tests
(R212, R213), and the signed extractor reading only its range (R134). -/

namespace Sys2Proof.Machine

open Sys2Proof

variable {W : Nat}

/-- Where 4 divides both bounds, the comparator tests an open interval of whole numbers (R132). -/
theorem tol_hardware_window {n lo hi : Nat} (hlo : 3 * n = 4 * lo) (hhi : 5 * n = 4 * hi) (v : Nat) :
    tol Config.hardware v n = true ↔ lo < v ∧ v < hi := by
  rw [tol_hardware]
  omega

/-- The pulse test (R214). -/
theorem tol_hardware_nxPulse (v : Nat) : tol Config.hardware v Config.hardware.nxPulse = true ↔ 360 < v ∧ v < 600 :=
  tol_hardware_window rfl rfl v

/-- A frame of 74 with its sync pair in tolerance: what is left to decide is the pulses (R212, R213). -/
structure NexusSynced (F : Frame W) : Prop where
  length : lenOK Config.hardware F.length 2 Config.hardware.nxPairs = true
  syncPulse : tol Config.hardware (ival F (F.length - 2)) Config.hardware.nxSyncPulse = true
  syncLen : tol Config.hardware (ival F (F.length - 1)) Config.hardware.nxSyncLen = true

theorem NexusSynced.of_windows {F : Frame W} (hlen : F.length = 74) (hpulse : 375 < ival F 72 ∧ ival F 72 < 625)
    (hsync : 3000 < ival F 73 ∧ ival F 73 < 5000) : NexusSynced F where
  length := (lenOK_exact _ _ _ _ rfl).2 hlen
  syncPulse := by rw [hlen]; exact (tol_hardware_window rfl rfl _).2 hpulse
  syncLen := by rw [hlen]; exact (tol_hardware_window rfl rfl _).2 hsync

/-- Under ZERO_FILL the gaps always give a reading (R216). -/
theorem nexusGaps_of_zeroFill {c : Config} (h : c.nexusShort = .zeroFill) (F : Frame W) :
    nexusGaps c F = nexusReading (classifyGaps c F) := by
  unfold nexusGaps
  exact if_neg fun hr => by simp [h] at hr

/-- An accepted frame's reading is that of its gap bits (R215 to R217). -/
theorem nexusDecode_of_shaped {F : Frame W} (hF : NexusShaped F) :
    nexusDecode Config.hardware F = nexusReading (classifyGaps Config.hardware F) := by
  obtain ⟨hlen, hpulse, hsync, hpulses⟩ := hF
  obtain ⟨h, h1, h2⟩ := NexusSynced.of_windows hlen hpulse hsync
  have good : firstBadPulse Config.hardware F = none :=
    firstBadPulse_eq_none fun i hi => (tol_hardware_nxPulse _).2 (hpulses i hi)
  exact (nexusDecode_gaps h h1 h2 good).trans (nexusGaps_of_zeroFill rfl F)

/-- Settles O44: with all pulses good the decoder reaches the gaps, which under ZERO_FILL give a reading; else the
search of the pulses stops at pair i, the first bad one. -/
theorem nexusRejectsTheFirstBadPulse : Obligations.NexusRejectsTheFirstBadPulse := by
  unfold Obligations.NexusRejectsTheFirstBadPulse
  refine ⟨fun F hF => ?good, fun F i hlen hp1 hp2 hs1 hs2 hi hbad hbefore => ?bad⟩
  case good =>
    rw [nexusDecode_of_shaped hF]
    rfl
  case bad =>
    obtain ⟨h, h1, h2⟩ := NexusSynced.of_windows hlen ⟨hp1, hp2⟩ ⟨hs1, hs2⟩
    have first : firstBadPulse Config.hardware F = some i :=
      firstBadPulse_eq_some i hi (Bool.eq_false_iff.2 (mt (tol_hardware_nxPulse _).1 hbad))
        fun j hj => (tol_hardware_nxPulse _).2 (hbefore j hj)
    exact nexusDecode_pulse h h1 h2 first

/-- Inside a sequence, the complement's symbol is the symbol's complement (R134). -/
theorem getD_map_not {b : List Bool} {i : Nat} (h : i < b.length) : (b.map not).getD i false = !b.getD i false := by
  simp [h]

/-- A signed extraction inside two sequences of one length reads only the symbols of its range. -/
theorem S_congr {b b' : List Bool} {s f : Nat} (hsf : s ≤ f) (hf : f < b.length) (hf' : f < b'.length)
    (h : ∀ i, s ≤ i → i ≤ f → b.getD i false = b'.getD i false) : S b s f = S b' s f := by
  have complemented : U (b.map not) s f = U (b'.map not) s f :=
    U_congr _ _ s f fun i hsi hif => by
      rw [getD_map_not (hif.trans_lt hf), getD_map_not (hif.trans_lt hf'), h i hsi hif]
  rw [S, S, h s le_rfl hsf, complemented, U_congr b b' s f h]

/-- Settles O48: no range of the five extractions of R217 holds one of the seven positions. -/
theorem nexusIgnoresSevenPositions : Obligations.NexusIgnoresSevenPositions := by
  unfold Obligations.NexusIgnoresSevenPositions
  intro nb nb' nn hlen hlen' hagree
  have read : ∀ {s f : Nat}, f < 36 → (∀ i ∈ [9, 12, 13, 24, 25, 26, 27], i < s ∨ f < i) →
      ∀ i, s ≤ i → i ≤ f → nb.getD i false = nb'.getD i false := by
    intro s f hf houtside i hsi hif
    refine hagree i (by omega) fun hi => ?_
    have := houtside i hi
    omega
  have hid : U nb 0 7 = U nb' 0 7 := U_congr _ _ _ _ (read (by decide) (by decide))
  have hbattery : U nb 8 8 = U nb' 8 8 := U_congr _ _ _ _ (read (by decide) (by decide))
  have hchannel : U nb 10 11 = U nb' 10 11 := U_congr _ _ _ _ (read (by decide) (by decide))
  have htemp : S nb 14 23 = S nb' 14 23 :=
    S_congr (by decide) (by omega) (by omega) (read (by decide) (by decide))
  have hhumidity : U nb 28 35 = U nb' 28 35 := U_congr _ _ _ _ (read (by decide) (by decide))
  simp only [nexusReading, hid, hbattery, hchannel, htemp, hhumidity]

end Sys2Proof.Machine
end

section
/-! SUPPORT, O3, O1, O4, O5, O6 and O59. The two fields of an event survive decoding and encoding (R90, R91), for every
W_T; the rows of the opcode table select on `op` alone. -/

namespace Sys2Proof

variable {W : Nat}

/-- Decoding gives the word's `op` (R91). -/
@[simp] theorem op_decode (w : EventWord W) : (decode w).op = opOf w := by
  rcases op_cases (opOf w) with h | h | h | h
  · rw [decode_op00 h, h]; rfl
  · rw [decode_op01 h, h]; rfl
  · rw [decode_op10 h, h]; rfl
  · rw [decode_op11 h, h]; rfl

/-- Decoding gives the word's `t`, whatever its `op` (R102). -/
@[simp] theorem time_decode (w : EventWord W) : (decode w).time = timeOf w := by
  rcases op_cases (opOf w) with h | h | h | h
  · rw [decode_op00 h]; rfl
  · rw [decode_op01 h]; rfl
  · rw [decode_op10 h]; rfl
  · rw [decode_op11 h]; rfl

theorem encode_decode (w : EventWord W) : encode (decode w) = w := by
  rw [encode, op_decode, time_decode, append_opOf_timeOf]

theorem decode_encode (i : Instr W) : decode (encode i) = i := by
  cases i with
  | idle t => rw [decode_op00 (opOf_encode _), timeOf_encode]; rfl
  | edge t => rw [decode_op01 (opOf_encode _), timeOf_encode]; rfl
  | tick t => rw [decode_op10 (opOf_encode _), timeOf_encode]; rfl
  | rsvd t => rw [decode_op11 (opOf_encode _), timeOf_encode]; rfl

/-- The word as a number: `op` above the W_T bits of `t` (R90). -/
theorem toNat_encode (i : Instr W) : (encode i).toNat = i.op.toNat * 2 ^ W + i.time.toNat := by
  rw [encode, BitVec.toNat_append, ← Nat.shiftLeft_add_eq_or_of_lt i.time.isLt, Nat.shiftLeft_eq]

/-- Settles O3: each event's `op` picks its own branch of the decoder, and its `t` comes back. -/
theorem decodeEncodeAllEvents : Obligations.DecodeEncodeAllEvents := by
  unfold Obligations.DecodeEncodeAllEvents
  exact fun i _ => decode_encode i

/-- Settles O4: a word is its two fields, and decoding keeps both. -/
theorem encodeDecodeAllWords : Obligations.EncodeDecodeAllWords := by
  unfold Obligations.EncodeDecodeAllWords
  exact encode_decode

/-- Settles O59: both round trips and the number hold at every width. -/
theorem encodingAtEveryTimestampWidth : Obligations.EncodingAtEveryTimestampWidth := by
  unfold Obligations.EncodingAtEveryTimestampWidth
  exact fun W => ⟨fun i => ⟨decode_encode i, toNat_encode i⟩, encode_decode⟩

/-- Settles O1, by evaluating the decoder on the six words. -/
theorem eventWordsOfTheSpec : Obligations.EventWordsOfTheSpec := by
  unfold Obligations.EventWordsOfTheSpec
  decide

/-- Row k of the table has k in the `op` field of its pattern and the whole `op` field as its mask. -/
theorem opcodeTable_getElem?_eq_some {k : Nat} {row : OpcodeRow} (h : opcodeTable[k]? = some row) :
    ∃ o : Op, o.toNat = k ∧ row = ⟨o ++ 0#32, 0b11#2 ++ 0#32⟩ := by
  match k, h with
  | 0, h => exact ⟨0b00#2, rfl, (Option.some.inj h).symm⟩
  | 1, h => exact ⟨0b01#2, rfl, (Option.some.inj h).symm⟩
  | 2, h => exact ⟨0b10#2, rfl, (Option.some.inj h).symm⟩
  | 3, h => exact ⟨0b11#2, rfl, (Option.some.inj h).symm⟩

/-- Under the `op` mask a word keeps its `op` and loses its `t`. -/
theorem and_opMask (w : EventWord) : w &&& (0b11#2 ++ 0#32) = opOf w ++ 0#32 := by
  have all : opOf w &&& 0b11#2 = opOf w := BitVec.and_allOnes
  have none : timeOf w &&& 0#32 = 0#32 := BitVec.and_zero
  conv_lhs => rw [← append_opOf_timeOf w]
  rw [BitVec.and_append, all, none]

/-- A word belongs to the row whose `op` it has. -/
theorem holds_row_iff (o : Op) (w : EventWord) :
    OpcodeRow.holds ⟨o ++ 0#32, 0b11#2 ++ 0#32⟩ w = true ↔ opOf w = o := by
  rw [OpcodeRow.holds, decide_eq_true_iff, and_opMask]
  constructor <;> intro h
  · rw [← opOf_append (opOf w) 0#32, h, opOf_append]
  · rw [h]

/-- Settles O5: a row tests the `op` field alone, and that is the decoded event's `op`. -/
theorem oneOpcodeRowPerWord : Obligations.OneOpcodeRowPerWord := by
  unfold Obligations.OneOpcodeRowPerWord
  intro w k row hrow
  obtain ⟨o, rfl, rfl⟩ := opcodeTable_getElem?_eq_some hrow
  rw [holds_row_iff, op_decode, BitVec.toNat_inj]

/-- Settles O6: the two clauses are the two branches of the decoder on numbers. -/
theorem tableWordsDecodeOrAreRejected : Obligations.TableWordsDecodeOrAreRejected := by
  unfold Obligations.TableWordsDecodeOrAreRejected
  intro nbits w
  constructor <;> intro h
  · rw [decodeTableWord, decodeNat_lt h]
  · rw [decodeTableWord, decodeNat_ge (Nat.not_lt.mpr h)]

end Sys2Proof
end

section
/-! SUPPORT, O7 to O12, O16, O28, O58 and O60. What one step does for each item at the port (R160, R68, R69, R340), and
that it always answers a next state. -/

namespace Sys2Proof.Machine

open Sys2Proof

variable {W : Nat}

/-- The state with the item at the front of its stream taken off. -/
abbrev State.withInput (s : State W) (rest : List (Input W)) : State W := { s with input := rest }

theorem step_eq_blockStep (s : State) : step s = .next (blockStep Config.hardware s) := by
  unfold step blockStep
  cases accept s with
  | nothing => rfl
  | reset s' => rfl
  | event i s' => exact exec_eq_runEvent i s'

theorem step_word {s : State} {w : EventWord} {rest : List Input} (h : s.input = .word w :: rest) :
    step s = exec (decode w) (s.withInput rest) := by
  unfold step; rw [accept_word h]

theorem step_reset {s : State} {rest : List Input} (h : s.input = .reset :: rest) :
    step s = .next (s.withInput rest).applyReset := by
  unfold step; rw [accept_reset h]

/-- Settles O58: `exec` is `runEvent` by cases of the event, and `step` and `blockStep` accept alike. -/
theorem stepIsTheBlockOfThisHardware : Obligations.StepIsTheBlockOfThisHardware := by
  unfold Obligations.StepIsTheBlockOfThisHardware
  exact ⟨step_eq_blockStep, exec_eq_runEvent⟩

/-- Settles O7: the port accepts the word's event. -/
theorem stepRunsTheDecodedEvent : Obligations.StepRunsTheDecodedEvent := by
  unfold Obligations.StepRunsTheDecodedEvent
  exact fun s w rest h => step_word h

/-- Settles O8: the offered word stands in front, and taking it off gives the state back. -/
theorem offeredWordRunsNext : Obligations.OfferedWordRunsNext := by
  unfold Obligations.OfferedWordRunsNext
  intro s nbits w
  exact step_word (s := s.withFetchWord nbits w) rfl

/-- Settles O9: the fields of the reset state do not depend on the draw t0. -/
theorem resetGivesTheResetState : Obligations.ResetGivesTheResetState := by
  unfold Obligations.ResetGivesTheResetState
  intro s rest h
  exact ⟨_, step_reset h, rfl, rfl, rfl, rfl, rfl⟩

/-- Settles O10: whichever the free order picks, the encoding of the other decodes back to it. -/
theorem simultaneousPairRunsInEitherOrder : Obligations.SimultaneousPairRunsInEitherOrder := by
  unfold Obligations.SimultaneousPairRunsInEitherOrder
  intro s te tt rest h
  unfold step
  rcases accept_both h with e | e <;> rw [e]
  · exact .inl ⟨_, decode_encode (.tick tt), rfl⟩
  · exact .inr ⟨_, decode_encode (.edge te), rfl⟩

/-- Settles O11: an empty port accepts nothing. -/
theorem emptyPortAcceptsNothing : Obligations.EmptyPortAcceptsNothing := by
  unfold Obligations.EmptyPortAcceptsNothing
  intro s h
  rw [step_eq_blockStep, blockStep_nil h]
  rfl

/-- A run of any length answers a next state: every step does (R300). -/
theorem neverStops (s : State) : NeverStops s := by
  intro n
  induction n generalizing s with
  | zero => exact ⟨s, rfl⟩
  | succ n ih =>
    rw [run_succ (step_eq_blockStep s)]
    exact ih _

/-- Settles O12: `exec` answers `runEvent`'s state, and a run follows the steps. -/
theorem noEventEverStopsTheBlock : Obligations.NoEventEverStopsTheBlock := by
  unfold Obligations.NoEventEverStopsTheBlock
  exact ⟨fun i s => ⟨_, exec_eq_runEvent i s⟩, neverStops⟩

/-- What `exec` answers is the state of `runEvent`. -/
theorem eq_runEvent_of_exec {i : Instr} {s s' : State} (h : exec i s = .next s') :
    s' = runEvent Config.hardware i s := by
  rw [exec_eq_runEvent] at h
  exact (Host.Outcome.next.inj h).symm

/-- What TICK leaves unchanged on either branch (R175). -/
theorem tick_frame (c : Config) (now : Word W) (s : State W) :
    (tick c now s).buf = s.buf ∧ (tick c now s).syncWidth = s.syncWidth ∧
    (tick c now s).lastEdgeTime = s.lastEdgeTime ∧ (tick c now s).input = s.input ∧
    (tick c now s).resets = s.resets ∧ (tick c now s).races = s.races := by
  rcases tick_cases c now s with ⟨-, e⟩ | ⟨-, e⟩ <;> simp [e]

/-- A read depends on the cells and on the draw's number alone (log 5). -/
theorem State.bufRead_congr {a b : State W} (hbuf : a.buf = b.buf) (hres : a.resets = b.resets) :
    a.bufRead = b.bufRead := by
  funext k
  rw [State.bufRead, State.bufRead, hbuf, hres]

/-- Settles O16: IDLE and the reserved op write the record alone, TICK also `recording` and `len`. -/
theorem onlyEdgeWritesTheCaptureRegisters : Obligations.OnlyEdgeWritesTheCaptureRegisters := by
  unfold Obligations.OnlyEdgeWritesTheCaptureRegisters
  intro t s s'
  refine ⟨?registers, ?frame⟩
  case registers =>
    rintro (h | h | h) <;> obtain rfl := eq_runEvent_of_exec h
    · exact ⟨fun k => rfl, rfl, rfl, rfl, rfl, rfl⟩
    · obtain ⟨hbuf, hsync, hlast, hinput, hresets, hraces⟩ := tick_frame Config.hardware t s
      exact ⟨congrFun (State.bufRead_congr hbuf hresets), hsync, hlast, hinput, hresets, hraces⟩
    · exact ⟨fun k => rfl, rfl, rfl, rfl, rfl, rfl⟩
  case frame =>
    rintro (h | h) <;> obtain rfl := eq_runEvent_of_exec h <;> exact ⟨rfl, rfl⟩

/-- Settles O60: the interval is the modular difference of R162 at every width, and RESET's sentinel is all ones. -/
theorem eventsAtEveryTimestampWidth : Obligations.EventsAtEveryTimestampWidth := by
  unfold Obligations.EventsAtEveryTimestampWidth
  intro W c t s
  refine ⟨edge_lastEdgeTime c t s, ⟨_, elapsed_interval t s.lastEdgeTime, rfl⟩, fun el hel => ?tick, fun rest h => ?reset⟩
  case tick =>
    obtain ⟨-, rfl⟩ := hel.interval_eq
    exact ⟨tick_of_le_inact, tick_of_inact_lt⟩
  case reset =>
    rw [blockStep_reset h]
    exact ⟨rfl, rfl, sentinel_toNat, rfl⟩

end Sys2Proof.Machine
end

section
/-! SUPPORT, O18 to O24 and O27. Each step of EDGE as an equation for each of its branches (R163 to R167), and an EDGE as
their chain: one equation for an interval up to INACT, one for the dead zone. -/

namespace Sys2Proof.Machine

open Sys2Proof

variable {W : Nat}

section Steps

variable {c : Config} {d : Word W} {s : State W}

/-! Step 2 (R163), after step 1 latched `t`. -/

/-- The state after step 1 (R162): a record begun, the time latched. -/
abbrev State.latched (s : State W) (t : Word W) : State W := s.beginRecord.setLastEdgeTime t

theorem edgeAppend_of_not_recording (t : Word W) (hrec : s.recording = false) :
    edgeAppend c d (s.latched t) = s.latched t := by
  simp [edgeAppend, hrec]

theorem edgeAppend_of_full (t : Word W) (hrec : s.recording = true) (hfull : 256 ≤ s.len.toNat) :
    edgeAppend Config.hardware d (s.latched t) = (s.latched t).discard Status.OVERFLOW := by
  simp [edgeAppend, hrec, hfull]

theorem edgeAppend_of_room (t : Word W) (hrec : s.recording = true) (hroom : s.len.toNat < 256) :
    edgeAppend Config.hardware d (s.latched t) = (s.latched t).bufAppend d := by
  simp [edgeAppend, hrec, Nat.not_le.mpr hroom]

@[simp] theorem edgeAppend_syncWidth (c : Config) (d : Word W) (s : State W) :
    (edgeAppend c d s).syncWidth = s.syncWidth := by
  rcases edgeAppend_cases c d s with ⟨-, e⟩ | ⟨-, -, e⟩ | ⟨-, -, e⟩ <;> simp [e]

/-! Step 3 (R164). -/

theorem edgeDeadZone_of_live (h : deadZone c d = false) : edgeDeadZone c d s = s := by
  simp [edgeDeadZone, h]

theorem edgeDeadZone_of_dead (h : deadZone c d = true) : edgeDeadZone c d s = s.discard Status.DEADZONE := by
  simp [edgeDeadZone, h]

@[simp] theorem edgeDeadZone_syncWidth (c : Config) (d : Word W) (s : State W) :
    (edgeDeadZone c d s).syncWidth = s.syncWidth := by
  rcases edgeDeadZone_cases c d s with ⟨-, e⟩ | ⟨-, e⟩ <;> simp [e]

theorem deadZone_hardware_eq_false (h : d.toNat ≤ 20000) : deadZone Config.hardware d = false := by
  rw [Bool.eq_false_iff, Ne, deadZone_hardware]
  omega

/-! Step 4 (R165 to R167). -/

/-- The interval that step 4 looks at: a sync candidate, and no dead-zone one where P_DZ_EXCLUSIVE excludes these (D6). -/
abbrev SyncCandidate (c : Config) (d : Word W) : Prop :=
  d.toNat > c.syncTh ∧ ¬ (c.dzExclusive = true ∧ deadZone c d = true)

/-- On this hardware P_DZ_EXCLUSIVE is false. -/
theorem syncCandidate_hardware (h : 3500 < d.toNat) : SyncCandidate Config.hardware d := ⟨h, by simp⟩

theorem edgeSync_of_not_candidate (h : ¬ SyncCandidate c d) : edgeSync c d s = s := if_neg h

theorem edgeSync_of_opens (h : SyncCandidate c d) (hrec : s.recording = false) : edgeSync c d s = s.opened d := by
  rw [edgeSync, if_pos h, hrec]
  rfl

theorem edgeSync_of_stays (hrec : s.recording = true) (hopen : closes c d s.syncWidth = false) :
    edgeSync c d s = s := by
  simp [edgeSync, hrec, hopen]

theorem edgeSync_of_closes (h : SyncCandidate c d) (hrec : s.recording = true)
    (hclose : closes c d s.syncWidth = true) : edgeSync c d s = closeFrame c s := by
  rw [edgeSync, if_pos h, if_pos hrec, if_pos hclose]

end Steps

/-- The close test of R166 on this hardware fails up to `sync_width` - 100. -/
theorem closes_hardware_eq_false {d w : Word W} (h : (d.toNat : Int) ≤ (w.toNat : Int) - 100) :
    closes Config.hardware d w = false := by
  rw [Bool.eq_false_iff, Ne, closes_iff, hardware_syncMargin]
  omega

/-- An interval up to INACT: step 3 does nothing (R164). -/
theorem edge_of_live {t : Word W} {s : State W} (h : (interval t s.lastEdgeTime).toNat ≤ 20000) :
    edge Config.hardware t s = edgeSync Config.hardware (interval t s.lastEdgeTime)
      (edgeAppend Config.hardware (interval t s.lastEdgeTime) (s.latched t)) := by
  rw [edge, edgeDeadZone_of_live (deadZone_hardware_eq_false h)]

/-- An interval above INACT: whatever step 2 did is discarded, and step 4 opens a frame (R164, R165). -/
theorem edge_of_dead {t : Word W} {s : State W} (h : 20000 < (interval t s.lastEdgeTime).toNat) :
    edge Config.hardware t s = ((edgeAppend Config.hardware (interval t s.lastEdgeTime) (s.latched t)).discard
      Status.DEADZONE).opened (interval t s.lastEdgeTime) := by
  rw [edge, edgeDeadZone_of_dead ((deadZone_hardware _).2 h)]
  exact edgeSync_of_opens (syncCandidate_hardware (by omega)) rfl

/-- An interval up to SYNC_TH is only appended (R163, R168). -/
theorem edge_of_le_syncTh {t : Word W} {s : State W} (h : (interval t s.lastEdgeTime).toNat ≤ 3500) :
    edge Config.hardware t s = edgeAppend Config.hardware (interval t s.lastEdgeTime) (s.latched t) := by
  rw [edge_of_live (by omega), edgeSync_hardware_of_le _ h]

/-- While recording with room, an interval that does not close is stored and the frame stays open (R163, R166, R168). -/
theorem edge_of_stored {t : Word W} {s : State W} (hrec : s.recording = true) (hroom : s.len.toNat < 256)
    (hlive : (interval t s.lastEdgeTime).toNat ≤ 20000)
    (hopen : (interval t s.lastEdgeTime).toNat ≤ 3500 ∨
      ((interval t s.lastEdgeTime).toNat : Int) ≤ (s.syncWidth.toNat : Int) - 100) :
    edge Config.hardware t s = (s.latched t).bufAppend (interval t s.lastEdgeTime) := by
  rw [edge_of_live hlive, edgeAppend_of_room t hrec hroom]
  rcases hopen with h | h
  · exact edgeSync_hardware_of_le _ h
  · exact edgeSync_of_stays hrec (closes_hardware_eq_false h)

/-- While recording with room, a sync candidate above `sync_width` - 100 is stored and closes the frame (R166). -/
theorem edge_of_closing {t : Word W} {s : State W} (hrec : s.recording = true) (hroom : s.len.toNat < 256)
    (hcand : 3500 < (interval t s.lastEdgeTime).toNat) (hlive : (interval t s.lastEdgeTime).toNat ≤ 20000)
    (hclose : (s.syncWidth.toNat : Int) - 100 < ((interval t s.lastEdgeTime).toNat : Int)) :
    edge Config.hardware t s =
      closeFrame Config.hardware ((s.latched t).bufAppend (interval t s.lastEdgeTime)) := by
  rw [edge_of_live hlive, edgeAppend_of_room t hrec hroom]
  exact edgeSync_of_closes (syncCandidate_hardware hcand) hrec ((closes_iff _ _ _).2 hclose)

/-- Frame completion with at most MIN_FRAME intervals, on this event's own record (R167). -/
theorem closeFrame_of_short {c : Config} {s : State W} (hout : s.out = some {}) (h : s.len.toNat ≤ c.minFrame) :
    closeFrame c s = { s with
      recording := false, len := 0#9, out := some { status := Status.SHORT, frameLen := s.len } } := by
  rcases closeFrame_cases c s with ⟨h', -⟩ | ⟨-, e⟩
  · exact absurd h (Nat.not_le.mpr h')
  · simp [e, State.bufClear, State.emitStatus, State.emitFrameLen, State.emit, State.setRecording, hout]

/-- Frame completion with more than MIN_FRAME intervals, on this event's own record (R167, R169). -/
theorem closeFrame_of_complete {c : Config} {s : State W} (hout : s.out = some {}) (h : c.minFrame < s.len.toNat) :
    closeFrame c s = { s with
      recording := false, len := 0#9,
      out := some {
        status := Status.FRAME, frameLen := s.len, nx := nexusDecode c s.frame, al := alarmDecode c s.frame } } := by
  rcases closeFrame_cases c s with ⟨-, e⟩ | ⟨h', -⟩
  · simp [e, State.bufClear, State.emitStatus, State.emitFrameLen, State.emitNexus, State.emitAlarm, State.emit,
      State.setRecording, hout]
  · exact absurd h (Nat.not_lt.mpr h')

/-- Settles O18: neither step 2 nor step 4 does anything. -/
theorem edgeOutsideAFrame : Obligations.EdgeOutsideAFrame := by
  unfold Obligations.EdgeOutsideAFrame
  intro t s d hel hrec hd
  obtain ⟨-, rfl⟩ := hel.interval_eq
  rw [exec_edge, edge_of_le_syncTh hd, edgeAppend_of_not_recording t hrec]
  rfl

/-- Settles O19: step 4 alone acts. -/
theorem edgeOpensAFrame : Obligations.EdgeOpensAFrame := by
  unfold Obligations.EdgeOpensAFrame
  intro t s d hel hrec hlo hhi
  obtain ⟨hw, rfl⟩ := hel.interval_eq
  rw [← hw, exec_edge, edge_of_live hhi, edgeAppend_of_not_recording t hrec,
    edgeSync_of_opens (s := s.latched t) (syncCandidate_hardware hlo) hrec]
  rfl

/-- Settles O20: step 3 discards what each branch of step 2 left, and step 4 opens a frame. -/
theorem edgeInTheDeadZoneReopens : Obligations.EdgeInTheDeadZoneReopens := by
  unfold Obligations.EdgeInTheDeadZoneReopens
  intro t s d hel hd
  obtain ⟨hw, rfl⟩ := hel.interval_eq
  rw [← hw, exec_edge, edge_of_dead hd]
  refine ⟨fun hrec => ?idle, fun hrec hroom => ?room, fun hrec hfull => ?full⟩
  case idle => rw [edgeAppend_of_not_recording t hrec]; rfl
  case room => rw [edgeAppend_of_room t hrec hroom]; rfl
  case full => rw [edgeAppend_of_full t hrec hfull]; rfl

/-- Settles O21: the interval is stored and step 4 does nothing. -/
theorem edgeStoresAnInterval : Obligations.EdgeStoresAnInterval := by
  unfold Obligations.EdgeStoresAnInterval
  intro t s d hel hrec hroom hlive hopen
  obtain ⟨hw, rfl⟩ := hel.interval_eq
  rw [← hw, exec_edge, edge_of_stored hrec hroom hlive hopen]
  rfl

/-- Settles O22: step 2 discards and stops recording, so that step 4 can open a frame. -/
theorem edgeOverflowDiscards : Obligations.EdgeOverflowDiscards := by
  unfold Obligations.EdgeOverflowDiscards
  intro t s d hel hrec hfull
  obtain ⟨hw, rfl⟩ := hel.interval_eq
  rw [← hw, exec_edge]
  refine ⟨fun hshort => ?stops, fun hlo hhi => ?reopens⟩
  case stops => rw [edge_of_le_syncTh hshort, edgeAppend_of_full t hrec hfull]; rfl
  case reopens =>
    rw [edge_of_live hhi, edgeAppend_of_full t hrec hfull, edgeSync_of_opens (syncCandidate_hardware hlo) rfl]
    rfl

/-- Settles O23: the frame closes with the interval stored, and is too short to decode. -/
theorem edgeClosesAShortFrame : Obligations.EdgeClosesAShortFrame := by
  unfold Obligations.EdgeClosesAShortFrame
  intro t s d hel hrec hshort hlo hhi hclose
  obtain ⟨hw, rfl⟩ := hel.interval_eq
  have hroom : s.len.toNat < 256 := by omega
  have hlen := State.bufAppend_len_toNat (s.latched t) (interval t s.lastEdgeTime) hroom
  have hmin : ((s.latched t).bufAppend (interval t s.lastEdgeTime)).len.toNat ≤ Config.hardware.minFrame :=
    hlen.trans_le hshort
  rw [← hw, exec_edge, edge_of_closing hrec hroom hlo hhi hclose, closeFrame_of_short rfl hmin]
  rfl

/-- Settles O24: the frame closes with the interval stored last, and both decoders run on the readout. -/
theorem edgeCompletesAFrame : Obligations.EdgeCompletesAFrame := by
  unfold Obligations.EdgeCompletesAFrame
  intro t s d hel hrec hlong hroom hlo hhi hclose
  obtain ⟨hw, rfl⟩ := hel.interval_eq
  have hlen := State.bufAppend_len_toNat (s.latched t) (interval t s.lastEdgeTime) hroom
  have hframe : ((s.latched t).bufAppend (interval t s.lastEdgeTime)).frame = s.frame ++ [interval t s.lastEdgeTime] :=
    State.frame_bufAppend (s.latched t) _ hroom
  rw [← hw, exec_edge, edge_of_closing hrec hroom hlo hhi hclose, closeFrame_of_complete rfl (hlong.trans_eq hlen.symm),
    hframe]
  rfl

/-- Where P_DZ_EXCLUSIVE excludes the dead zone from step 4, an EDGE in it ends with step 3 (R165, D6). -/
theorem edge_of_excluded {c : Config} {t : Word W} {s : State W} (hx : c.dzExclusive = true)
    (hdead : deadZone c (interval t s.lastEdgeTime) = true) :
    edge c t s = (edgeAppend c (interval t s.lastEdgeTime) (s.latched t)).discard Status.DEADZONE := by
  rw [edge, edgeSync_of_not_candidate fun h => h.2 ⟨hx, hdead⟩, edgeDeadZone_of_dead hdead]

theorem edge_of_excluded_fields {c : Config} {t : Word W} {s : State W} (hx : c.dzExclusive = true)
    (hdead : deadZone c (interval t s.lastEdgeTime) = true) :
    (edge c t s).recording = false ∧ (edge c t s).len = 0#9 ∧ (edge c t s).syncWidth = s.syncWidth ∧
    (edge c t s).lastEdgeTime = t := by
  simp [edge_of_excluded hx hdead]

/-- Settles O27: step 4 is skipped, and steps 2 and 3 leave `sync_width`. -/
theorem exclusiveDeadZoneOpensNothing : Obligations.ExclusiveDeadZoneOpensNothing := by
  unfold Obligations.ExclusiveDeadZoneOpensNothing
  intro t s d hel hd
  obtain ⟨-, rfl⟩ := hel.interval_eq
  exact edge_of_excluded_fields rfl ((deadZone_hardware _).2 hd)

end Sys2Proof.Machine
end

section
/-! SUPPORT, O29, O28, O30 and O31. Every update of EDGE and TICK keeps the invariants of R36 and R37 under the condition it
is used in, so every event, every step and every run keeps them. -/

namespace Sys2Proof.Machine

open Sys2Proof

variable {W : Nat}

/-- The invariants speak of five fields alone: a state alike in these meets them too. -/
theorem State.Inv.congr {a b : State W} (h : a.Inv) (hrec : b.recording = a.recording) (hlen : b.len = a.len)
    (hbuf : b.buf = a.buf) (hsync : b.syncWidth = a.syncWidth) (hres : b.resets = a.resets) : b.Inv := by
  obtain ⟨i1, i2, i3, i4, ⟨wf, range, written⟩⟩ := h
  refine ⟨?_, ?_, ?_, ?_, ⟨?_, ?_, ?_⟩⟩
  · rwa [State.I1, hlen]
  · rwa [State.I2, hrec, hlen]
  · rwa [State.I3, hrec, hsync]
  · rwa [State.I4, hlen, State.bufRead_congr hbuf hres]
  · rwa [hbuf]
  · rwa [hbuf]
  · rwa [hlen, hbuf]

/-- The part of `State.BufOK` that does not speak of `len`: a discard keeps it, whatever was stored. -/
structure State.CellsOK (s : State W) : Prop where
  wf : Memory.wf s.buf = true
  range : ∀ cell ∈ s.buf, cell.1 < Config.hardware.cap

theorem State.Inv.cells {s : State W} (h : s.Inv) : s.CellsOK := ⟨h.buf.wf, h.buf.range⟩

/-- An append with room writes an entry inside the index range (R60, R61). -/
theorem State.CellsOK.bufAppend {s : State W} (h : s.CellsOK) (hroom : s.len.toNat < 256) (d : Word W) :
    (s.bufAppend d).CellsOK where
  wf := Memory.write_wf _ _ _ h.wf
  range := by
    intro cell hcell
    rcases Memory.mem_write hcell with rfl | hcell
    · exact hroom
    · exact h.range cell hcell

/-- With an empty buffer only the cells' form and, in a frame, `sync_width` are left to ask. -/
theorem State.CellsOK.inv_of_len_zero {s : State W} (h : s.CellsOK) (hlen : s.len = 0#9) (hsync : s.I3) : s.Inv where
  i1 := by simp [State.I1, hlen]
  i2 := fun _ => hlen
  i3 := hsync
  i4 := fun i hi => by simp [hlen] at hi
  buf := ⟨h.wf, h.range, fun i hi => by simp [hlen] at hi⟩

/-- With an empty buffer and no frame open only the cells' form is left to ask. -/
theorem State.CellsOK.inv_of_idle {s : State W} (h : s.CellsOK) (hlen : s.len = 0#9) (hrec : s.recording = false) :
    s.Inv :=
  h.inv_of_len_zero hlen fun hr => absurd (hrec.symm.trans hr) (by decide)

theorem State.CellsOK.nil {s : State W} (h : s.buf = []) : s.CellsOK :=
  ⟨by rw [h]; rfl, by simp [h]⟩

theorem State.Inv.resetWith (t0 : Word W) : (State.resetWith t0).Inv := (State.CellsOK.nil rfl).inv_of_idle rfl rfl

/-- RESET meets the invariants whatever stays at the port. -/
theorem State.Inv.applyReset (s : State W) : s.applyReset.Inv := (State.CellsOK.nil rfl).inv_of_idle rfl rfl

/-- A discard outside or inside a frame (R163, R164, R175). -/
theorem State.CellsOK.discard {s : State W} (h : s.CellsOK) (b : BitVec 7) : (s.discard b).Inv :=
  State.CellsOK.inv_of_idle ⟨h.wf, h.range⟩ rfl rfl

/-- Opening a frame on an empty buffer, with an interval above SYNC_TH (R165). -/
theorem State.Inv.opened {s : State W} (h : s.Inv) (hlen : s.len = 0#9) {d : Word W} (hd : 3500 < d.toNat) :
    (s.opened d).Inv :=
  State.CellsOK.inv_of_len_zero ⟨h.buf.wf, h.buf.range⟩ hlen fun _ => hd

/-- An append while recording with room, of an interval at most INACT (R163). -/
theorem State.Inv.bufAppend {s : State W} (h : s.Inv) (hrec : s.recording = true) (hroom : s.len.toNat < 256)
    {d : Word W} (hd : d.toNat ≤ 20000) : (s.bufAppend d).Inv := by
  have happ := h.cells.bufAppend hroom d
  have hlen := State.bufAppend_len_toNat s d hroom
  refine ⟨?i1, ?i2, h.i3, ?i4, ⟨happ.wf, happ.range, ?written⟩⟩
  case i1 => rw [State.I1, hlen]; exact hroom
  case i2 => exact fun hr => absurd (hrec.symm.trans hr) (by decide)
  case i4 =>
    intro i hi
    rcases eq_or_ne i s.len.toNat with rfl | hne
    · rw [State.bufAppend_bufRead_same]; exact hd
    · rw [State.bufAppend_bufRead_other s d i hne]; exact h.i4 i (by omega)
  case written =>
    intro i hi
    rcases eq_or_ne i s.len.toNat with rfl | hne
    · simp
    · rw [State.bufAppend_buf, Memory.read_write_other _ _ _ _ hne]; exact h.buf.written i (by omega)

/-- Closing a frame clears the buffer and stops recording (R166, R167). -/
theorem State.Inv.closeFrame {s : State W} (h : s.Inv) (c : Config) : (closeFrame c s).Inv := by
  obtain ⟨hrec, hlen, hbuf, -⟩ := closeFrame_fields c s
  exact State.CellsOK.inv_of_idle ⟨hbuf ▸ h.buf.wf, hbuf ▸ h.buf.range⟩ hlen hrec

/-- Every EDGE keeps the invariants, by the nine things it can do. -/
theorem edge_keeps_inv (t : Word W) {s : State W} (hs : s.Inv) : (edge Config.hardware t s).Inv := by
  have h1 : (s.beginRecord.setLastEdgeTime t).Inv := hs.congr rfl rfl rfl rfl rfl
  rcases edge_cases t s _ _ rfl rfl with
    ⟨-, -, e⟩ | ⟨hr, hlo, -, e⟩ | ⟨-, hlo, e⟩ | ⟨hr, hroom, hhi, -, e⟩ | ⟨hr, hroom, -, hhi, -, e⟩ | ⟨-, hroom, hlo, e⟩ |
    ⟨-, -, -, e⟩ | ⟨-, -, hlo, -, e⟩ | ⟨-, -, hlo, e⟩ <;> rw [e]
  · exact h1
  · exact h1.opened (h1.i2 hr) hlo
  · exact (h1.cells.discard _).opened rfl (by omega)
  · exact h1.bufAppend hr hroom hhi
  · exact (h1.bufAppend hr hroom hhi).closeFrame _
  · exact ((h1.cells.bufAppend hroom _).discard _).opened rfl (by omega)
  · exact h1.cells.discard _
  · exact (h1.cells.discard _).opened rfl hlo
  · exact ((h1.cells.discard _).cells.discard _).opened rfl (by omega)

/-- Every event keeps the invariants. -/
theorem runEvent_keeps_inv (i : Instr W) {s : State W} (hs : s.Inv) : (runEvent Config.hardware i s).Inv := by
  have hbegin : s.beginRecord.Inv := hs.congr rfl rfl rfl rfl rfl
  cases i with
  | idle t => exact hbegin
  | edge t => exact edge_keeps_inv t hs
  | tick now =>
    rcases tick_cases Config.hardware now s with ⟨-, e⟩ | ⟨-, e⟩ <;> rw [runEvent, e]
    · exact hbegin
    · exact hbegin.cells.discard _
  | rsvd t => exact hbegin.congr rfl rfl rfl rfl rfl

/-- What the port can give a step: nothing, RESET, or an event on a state changed in the stream and the order's counter
alone (R68, R69). -/
theorem blockStep_cases (c : Config) (s : State W) :
    blockStep c s = s.noRecord ∨ (∃ s1 : State W, blockStep c s = s1.applyReset) ∨
    ∃ i rest n, blockStep c s = runEvent c i { s with input := rest, races := n } := by
  unfold blockStep
  rcases hin : s.input with _ | ⟨_ | _ | _, rest⟩
  case nil => rw [accept_nil hin]; exact .inl rfl
  case cons.word w => rw [accept_word hin]; exact .inr (.inr ⟨_, _, _, rfl⟩)
  case cons.reset => rw [accept_reset hin]; exact .inr (.inl ⟨_, rfl⟩)
  case cons.both te tt => rcases accept_both hin with e | e <;> rw [e] <;> exact .inr (.inr ⟨_, _, _, rfl⟩)

theorem blockStep_keeps_inv {s : State W} (hs : s.Inv) : (blockStep Config.hardware s).Inv := by
  rcases blockStep_cases Config.hardware s with e | ⟨s1, e⟩ | ⟨i, rest, n, e⟩ <;> rw [e]
  · exact hs.congr rfl rfl rfl rfl rfl
  · exact .applyReset s1
  · exact runEvent_keeps_inv i (hs.congr rfl rfl rfl rfl rfl)

/-- Settles O29: nothing offered, RESET and each event keep the invariants. -/
theorem everyStepKeepsTheInvariants : Obligations.EveryStepKeepsTheInvariants := by
  unfold Obligations.EveryStepKeepsTheInvariants
  intro s s' hs h
  rw [step_eq_blockStep] at h
  exact Host.Outcome.next.inj h ▸ blockStep_keeps_inv hs

/-- Settles O28: an empty buffer, and no frame open. -/
theorem resetMeetsTheInvariants : Obligations.ResetMeetsTheInvariants := by
  unfold Obligations.ResetMeetsTheInvariants
  exact ⟨State.Inv.resetWith, State.Inv.resetWith _⟩

/-- What every step keeps holds after a run of any length. -/
theorem run_keeps {P : State → Prop} (hstep : ∀ s, P s → P (blockStep Config.hardware s)) {n : Nat} {s s' : State}
    (hs : P s) (h : Sys2Proof.core.run n s = .next s') : P s' := by
  induction n generalizing s with
  | zero => exact Host.Outcome.next.inj h ▸ hs
  | succ n ih => exact ih (hstep s hs) ((run_succ (step_eq_blockStep s) n).symm.trans h)

/-- I2 is the absence of the torn combination (R345). -/
theorem State.Inv.not_torn {s : State W} (h : s.Inv) : s.torn = false := by
  cases hr : s.recording with
  | false => simp [State.torn, h.i2 hr]
  | true => simp [State.torn, hr]

/-- Settles O30: I2 holds after every run. -/
theorem noRunIsEverTorn : Obligations.NoRunIsEverTorn := by
  unfold Obligations.NoRunIsEverTorn
  exact fun n s s' hs h => (run_keeps (P := State.Inv) (fun _ => blockStep_keeps_inv) hs h).not_torn

end Sys2Proof.Machine
end

section
/-! SUPPORT, O33, O34 and O35. Every update of EDGE and TICK reads of a state only what `ObsEq` compares (R33, R34, R39),
so states alike in that stay alike and report alike; a dead-zone EDGE forgets what came before it. -/

namespace Sys2Proof.Machine

open Sys2Proof

variable {W : Nat}

/-- Alike in what a later event can tell, and in the record reported so far. -/
structure State.Alike (a b : State W) : Prop where
  obs : a.ObsEq b
  out : a.out = b.out

section Updates

variable {a b : State W}

theorem State.ObsEq.interval_eq (h : a.ObsEq b) (t : Word W) : interval t a.lastEdgeTime = interval t b.lastEdgeTime := by
  rw [h.lastEdgeTime]

/-- A fresh record: the old ones are not compared (R40). -/
theorem State.ObsEq.beginRecord (h : a.ObsEq b) : a.beginRecord.Alike b.beginRecord :=
  ⟨⟨h.recording, h.len, h.entries, h.syncWidth, h.lastEdgeTime, h.input, h.resets, h.races⟩, rfl⟩

theorem State.ObsEq.noRecord (h : a.ObsEq b) : a.noRecord.Alike b.noRecord :=
  ⟨⟨h.recording, h.len, h.entries, h.syncWidth, h.lastEdgeTime, h.input, h.resets, h.races⟩, rfl⟩

theorem State.ObsEq.taken (h : a.ObsEq b) (rest : List (Input W)) (n : Nat) :
    State.ObsEq { a with input := rest, races := n } { b with input := rest, races := n } :=
  ⟨h.recording, h.len, h.entries, h.syncWidth, h.lastEdgeTime, rfl, h.resets, rfl⟩

/-- With an empty buffer no entry is compared. -/
theorem State.ObsEq.of_len_zero (ha : a.len = 0#9) (hb : b.len = 0#9) (hrec : a.recording = b.recording)
    (hsync : a.recording = true → a.syncWidth = b.syncWidth) (hlast : a.lastEdgeTime = b.lastEdgeTime)
    (hin : a.input = b.input) (hres : a.resets = b.resets) (hraces : a.races = b.races) : a.ObsEq b :=
  ⟨hrec, ha.trans hb.symm, fun i hi => by simp [ha] at hi, hsync, hlast, hin, hres, hraces⟩

/-- RESET leaves the same draw, numbered by the same counter (log 4). -/
theorem State.ObsEq.applyReset (h : a.ObsEq b) : a.applyReset.Alike b.applyReset :=
  ⟨.of_len_zero rfl rfl rfl (fun _ => rfl) (by simp [h.resets]) h.input (by simp [h.resets]) h.races, rfl⟩

theorem State.Alike.setLastEdgeTime (h : a.Alike b) (t : Word W) : (a.setLastEdgeTime t).Alike (b.setLastEdgeTime t) :=
  ⟨⟨h.obs.recording, h.obs.len, h.obs.entries, h.obs.syncWidth, rfl, h.obs.input, h.obs.resets, h.obs.races⟩, h.out⟩

theorem State.Alike.emit (h : a.Alike b) (f : OutputRecord → OutputRecord) : (a.emit f).Alike (b.emit f) :=
  ⟨⟨h.obs.recording, h.obs.len, h.obs.entries, h.obs.syncWidth, h.obs.lastEdgeTime, h.obs.input, h.obs.resets,
    h.obs.races⟩, by rw [State.emit_out, State.emit_out, h.out]⟩

/-- Outside a frame `sync_width` is not compared (R34). -/
theorem State.Alike.stopRecording (h : a.Alike b) : (a.setRecording false).Alike (b.setRecording false) :=
  ⟨⟨rfl, h.obs.len, h.obs.entries, fun hr => by simp at hr, h.obs.lastEdgeTime, h.obs.input, h.obs.resets,
    h.obs.races⟩, h.out⟩

theorem State.Alike.bufClear (h : a.Alike b) : a.bufClear.Alike b.bufClear :=
  ⟨.of_len_zero rfl rfl h.obs.recording h.obs.syncWidth h.obs.lastEdgeTime h.obs.input h.obs.resets h.obs.races, h.out⟩

theorem State.Alike.discard (h : a.Alike b) (bit : BitVec 7) : (a.discard bit).Alike (b.discard bit) :=
  h.bufClear.stopRecording.emit _

/-- Opening a frame writes `sync_width`, whatever it was (R165). -/
theorem State.Alike.opened (h : a.Alike b) (d : Word W) : (a.opened d).Alike (b.opened d) :=
  State.Alike.emit (a := (a.setRecording true).setSyncWidth d) (b := (b.setRecording true).setSyncWidth d)
    ⟨⟨rfl, h.obs.len, h.obs.entries, fun _ => rfl, h.obs.lastEdgeTime, h.obs.input, h.obs.resets, h.obs.races⟩, h.out⟩ _

/-- An append writes the first entry that is not compared, and it is compared after it (R61). -/
theorem State.Alike.bufAppend (h : a.Alike b) (d : Word W) : (a.bufAppend d).Alike (b.bufAppend d) := by
  have hlen : (a.bufAppend d).len = (b.bufAppend d).len := by simp [h.obs.len]
  refine ⟨⟨h.obs.recording, hlen, fun i hi => ?entries, h.obs.syncWidth, h.obs.lastEdgeTime, h.obs.input, h.obs.resets,
    h.obs.races⟩, h.out⟩
  case entries =>
    have hile : i ≤ a.len.toNat := by
      rw [State.bufAppend_len, BitVec.toNat_add] at hi
      exact Nat.lt_succ_iff.mp (hi.trans_le (Nat.mod_le _ _))
    rcases eq_or_lt_of_le hile with rfl | hlt
    · rw [State.bufAppend_bufRead_same, h.obs.len, State.bufAppend_bufRead_same]
    · rw [State.bufAppend_bufRead_other a d i hlt.ne, State.bufAppend_bufRead_other b d i (h.obs.len ▸ hlt.ne)]
      exact h.obs.entries i hlt

/-- The readout of R63 holds compared entries alone, so both decoders get one frame. -/
theorem State.Alike.closeFrame (h : a.Alike b) (c : Config) : (closeFrame c a).Alike (closeFrame c b) := by
  have hframe : a.frame = b.frame := State.frame_congr h.obs.len h.obs.entries
  have hstop := h.stopRecording.emit fun o => { o with frameLen := a.len }
  unfold Machine.closeFrame runDecoders
  rw [← h.obs.len]
  split
  · simp only [State.emitFrameLen_frame, State.setRecording_frame, ← hframe]
    exact (((hstop.emit _).emit _).emit _).bufClear
  · exact (hstop.emit _).bufClear

theorem State.Alike.edgeAppend (h : a.Alike b) (c : Config) (d : Word W) :
    (edgeAppend c d a).Alike (edgeAppend c d b) := by
  unfold Machine.edgeAppend
  rw [← h.obs.recording, ← h.obs.len]
  split
  · split
    · exact h.discard _
    · exact h.bufAppend d
  · exact h

theorem State.Alike.edgeDeadZone (h : a.Alike b) (c : Config) (d : Word W) :
    (edgeDeadZone c d a).Alike (edgeDeadZone c d b) := by
  unfold Machine.edgeDeadZone
  split
  · exact h.discard _
  · exact h

/-- Step 4 reads `sync_width` only while recording (R34, R166). -/
theorem State.Alike.edgeSync (h : a.Alike b) (c : Config) (d : Word W) : (edgeSync c d a).Alike (edgeSync c d b) := by
  unfold Machine.edgeSync
  rw [← h.obs.recording]
  split
  · split
    next hrec =>
      rw [← h.obs.syncWidth hrec]
      split
      · exact h.closeFrame c
      · exact h
    next => exact h.opened d
  · exact h

theorem State.ObsEq.edge (h : a.ObsEq b) (c : Config) (t : Word W) : (edge c t a).Alike (edge c t b) := by
  unfold Machine.edge
  rw [h.interval_eq t]
  exact (((h.beginRecord.setLastEdgeTime t).edgeAppend c _).edgeDeadZone c _).edgeSync c _

theorem State.ObsEq.tick (h : a.ObsEq b) (c : Config) (now : Word W) : (tick c now a).Alike (tick c now b) := by
  unfold Machine.tick
  rw [h.interval_eq now]
  split
  · exact h.beginRecord.discard _
  · exact h.beginRecord

theorem State.ObsEq.runEvent (h : a.ObsEq b) (c : Config) (i : Instr W) : (runEvent c i a).Alike (runEvent c i b) := by
  cases i with
  | idle t => exact h.beginRecord
  | edge t => exact h.edge c t
  | tick now => exact h.tick c now
  | rsvd t => exact h.beginRecord.emit _

theorem State.ObsEq.blockStep (h : a.ObsEq b) (c : Config) : (blockStep c a).Alike (blockStep c b) := by
  unfold Machine.blockStep accept
  rw [← h.input, ← h.races]
  rcases a.input with _ | ⟨w | _ | ⟨te, tt⟩, rest⟩
  case nil => exact h.noRecord
  case cons.word => exact (h.taken rest _).runEvent c _
  case cons.reset => exact (h.taken rest _).applyReset
  case cons.both => cases Config.edgeFirst a.races <;> exact (h.taken _ _).runEvent c _

end Updates

/-- Settles O33: one step of alike states leaves alike states with one record. -/
theorem unobservableStateIsNeverObserved : Obligations.UnobservableStateIsNeverObserved := by
  unfold Obligations.UnobservableStateIsNeverObserved
  intro a b a' h ha
  rw [step_eq_blockStep] at ha
  obtain rfl := Host.Outcome.next.inj ha
  obtain ⟨obs, out⟩ := h.blockStep Config.hardware
  exact ⟨_, step_eq_blockStep b, obs, out⟩

/-- What an EDGE in the dead zone leaves, whatever was held before it (R163 to R165). -/
theorem edge_of_dead_fields {t : Word W} {s : State W} (h : 20000 < (interval t s.lastEdgeTime).toNat) :
    (edge Config.hardware t s).recording = true ∧ (edge Config.hardware t s).len = 0#9 ∧
    (edge Config.hardware t s).syncWidth = interval t s.lastEdgeTime := by
  simp [edge_of_dead h]

/-- A dead-zone EDGE leaves alike any two states with one `last_edge_time` and one port. -/
theorem edge_deadZone_obsEq {a b : State W} {t : Word W} (hlast : a.lastEdgeTime = b.lastEdgeTime)
    (hin : a.input = b.input) (hres : a.resets = b.resets) (hraces : a.races = b.races)
    (h : 20000 < (interval t a.lastEdgeTime).toNat) :
    (edge Config.hardware t a).ObsEq (edge Config.hardware t b) := by
  obtain ⟨ra, la, wa⟩ := edge_of_dead_fields h
  obtain ⟨rb, lb, wb⟩ := edge_of_dead_fields (hlast ▸ h)
  obtain ⟨ia, sa, na⟩ := edge_port Config.hardware t a
  obtain ⟨ib, sb, nb⟩ := edge_port Config.hardware t b
  exact .of_len_zero la lb (ra.trans rb.symm) (fun _ => by rw [wa, wb, hlast]) (by simp) (by rw [ia, ib, hin])
    (by rw [sa, sb, hres]) (by rw [na, nb, hraces])

/-- An EDGE in the dead zone comes out alike with any TICK before it or without (R164, R175). -/
theorem edge_tick_obsEq_edge (now : Word W) {t : Word W} {s : State W} (h : 20000 < (interval t s.lastEdgeTime).toNat) :
    (edge Config.hardware t (tick Config.hardware now s)).ObsEq (edge Config.hardware t s) := by
  obtain ⟨-, -, hlast, hin, hres, hraces⟩ := tick_frame Config.hardware now s
  exact edge_deadZone_obsEq hlast hin hres hraces (hlast ▸ h)

/-- Settles O34: the EDGE's interval is in the dead zone too, so that it forgets the TICK. -/
theorem watchdogIsRedundantForFrames : Obligations.WatchdogIsRedundantForFrames := by
  unfold Obligations.WatchdogIsRedundantForFrames
  intro now t s el d hel hd hfires hlater
  obtain ⟨-, rfl⟩ := hd.interval_eq
  exact ⟨_, _, _, exec_tick now s, exec_edge t _, exec_edge t s, edge_tick_obsEq_edge now (by omega)⟩

/-- A TICK at the time of the last edge only begins a record (R175). -/
theorem tick_at_lastEdgeTime (c : Config) {now : Word W} {s : State W} (h : s.lastEdgeTime = now) :
    tick c now s = s.beginRecord :=
  tick_of_le_inact (by simp [interval, h])

/-- A record begun before it makes no difference to an EDGE (R95). -/
theorem edge_beginRecord (c : Config) (t : Word W) (s : State W) : edge c t s.beginRecord = edge c t s := rfl

/-- A fresh record is not observed. -/
theorem State.ObsEq.beginRecord_left {a b : State W} (h : a.ObsEq b) : a.beginRecord.ObsEq b :=
  ⟨h.recording, h.len, h.entries, h.syncWidth, h.lastEdgeTime, h.input, h.resets, h.races⟩

theorem State.ObsEq.refl (a : State W) : a.ObsEq a := ⟨rfl, rfl, fun _ _ => rfl, fun _ => rfl, rfl, rfl, rfl, rfl⟩

theorem State.ObsEq.symm {a b : State W} (h : a.ObsEq b) : b.ObsEq a :=
  ⟨h.recording.symm, h.len.symm, fun i hi => (h.entries i (h.len ▸ hi)).symm,
    fun hr => (h.syncWidth (h.recording.trans hr)).symm, h.lastEdgeTime.symm, h.input.symm, h.resets.symm, h.races.symm⟩

/-- Settles O35: a TICK after the EDGE finds no time elapsed; one before it only begins a record, or fires, and then the
EDGE is in the dead zone. -/
theorem simultaneousOrderIsImmaterial : Obligations.SimultaneousOrderIsImmaterial := by
  unfold Obligations.SimultaneousOrderIsImmaterial
  intro t s
  refine ⟨_, _, _, _, exec_edge t s, exec_tick t _, exec_tick t s, exec_edge t _, ?_⟩
  rw [tick_at_lastEdgeTime _ (edge_lastEdgeTime _ t s)]
  rcases tick_cases Config.hardware t s with ⟨-, e⟩ | ⟨hfires, -⟩
  · rw [e, edge_beginRecord]
    exact (State.ObsEq.refl _).beginRecord_left
  · exact (edge_tick_obsEq_edge t hfires).symm.beginRecord_left

end Sys2Proof.Machine
end

section
/-! SUPPORT, O25, O26, O31 and O32. The status each step of EDGE adds to the record (R96), hence the sets an EDGE can
report; FRAME and SHORT come from a closing EDGE alone. -/

namespace Sys2Proof.Machine

open Sys2Proof

variable {W : Nat}

/-! ### The entries and `sync_width` an EDGE leaves -/

@[simp] theorem edgeDeadZone_bufRead (c : Config) (d : Word W) (s : State W) :
    (edgeDeadZone c d s).bufRead = s.bufRead := by
  rcases edgeDeadZone_cases c d s with ⟨-, e⟩ | ⟨-, e⟩ <;> simp [e]

@[simp] theorem closeFrame_bufRead (c : Config) (s : State W) : (closeFrame c s).bufRead = s.bufRead := by
  obtain ⟨-, -, hbuf, -, -, -, hres, -⟩ := closeFrame_fields c s
  exact State.bufRead_congr hbuf hres

@[simp] theorem edgeSync_bufRead (c : Config) (d : Word W) (s : State W) : (edgeSync c d s).bufRead = s.bufRead := by
  rcases edgeSync_cases c d s with ⟨-, e⟩ | ⟨-, -, e⟩ | ⟨-, -, -, e⟩ | ⟨-, -, -, e⟩ <;> rw [e]
  · rfl
  · exact closeFrame_bufRead c s

/-- Step 2 writes the entry at `len` alone, while recording with room (R61, R163). -/
theorem edgeAppend_bufRead {c : Config} {d : Word W} {s : State W} {k : Nat}
    (hk : ¬ (s.recording = true ∧ s.len.toNat < c.cap ∧ k = s.len.toNat)) :
    (edgeAppend c d s).bufRead k = s.bufRead k := by
  rcases edgeAppend_cases c d s with ⟨-, e⟩ | ⟨-, -, e⟩ | ⟨hrec, hroom, e⟩ <;> rw [e]
  · rfl
  · exact State.bufAppend_bufRead_other s d k fun h => hk ⟨hrec, hroom, h⟩

/-! ### The status bits reported so far -/

/-- The state's record, begun by this event, holds the status `b`. -/
def State.Reports (s : State W) (b : BitVec 7) : Prop := ∃ o, s.out = some o ∧ o.status = b

theorem State.Reports.status_eq {s : State W} {b : BitVec 7} (h : s.Reports b) : s.status = b := by
  obtain ⟨o, hout, rfl⟩ := h
  rw [State.status, hout]

theorem State.Reports.emitStatus {s : State W} {b : BitVec 7} (h : s.Reports b) (bit : BitVec 7) :
    (s.emitStatus bit).Reports (b ||| bit) := by
  obtain ⟨o, hout, rfl⟩ := h
  exact ⟨_, by rw [State.emitStatus_out, hout, Option.map_some], rfl⟩

theorem State.Reports.discard {s : State W} {b : BitVec 7} (h : s.Reports b) (bit : BitVec 7) :
    (s.discard bit).Reports (b ||| bit) :=
  State.Reports.emitStatus (s := s.bufClear.setRecording false) h bit

theorem State.Reports.opened {s : State W} {b : BitVec 7} (h : s.Reports b) (d : Word W) :
    (s.opened d).Reports (b ||| Status.OPEN) :=
  State.Reports.emitStatus (s := (s.setRecording true).setSyncWidth d) h Status.OPEN

/-- Step 1 begins an all-zero record (R95). -/
theorem State.latched_reports (s : State W) (t : Word W) : (s.latched t).Reports 0#7 := ⟨{}, rfl, rfl⟩

/-- The fields a closing frame sets beside the status leave it. -/
theorem State.Reports.emitFrameLen {s : State W} {b : BitVec 7} (h : s.Reports b) (n : BitVec 9) :
    (s.emitFrameLen n).Reports b := by
  obtain ⟨o, hout, rfl⟩ := h
  exact ⟨{ o with frameLen := n }, by rw [State.emitFrameLen_out, hout, Option.map_some], rfl⟩

theorem State.Reports.emitNexus {s : State W} {b : BitVec 7} (h : s.Reports b) (x : NexusFields) :
    (s.emitNexus x).Reports b := by
  obtain ⟨o, hout, rfl⟩ := h
  exact ⟨{ o with nx := x }, by rw [State.emitNexus_out, hout, Option.map_some], rfl⟩

theorem State.Reports.emitAlarm {s : State W} {b : BitVec 7} (h : s.Reports b) (x : AlarmFields) :
    (s.emitAlarm x).Reports b := by
  obtain ⟨o, hout, rfl⟩ := h
  exact ⟨{ o with al := x }, by rw [State.emitAlarm_out, hout, Option.map_some], rfl⟩

/-- A closing frame adds FRAME or SHORT (R167). -/
theorem State.Reports.closeFrame {s : State W} {b : BitVec 7} (h : s.Reports b) (c : Config) :
    (closeFrame c s).Reports (b ||| Status.FRAME) ∨ (closeFrame c s).Reports (b ||| Status.SHORT) := by
  have hlen : ((s.setRecording false).emitFrameLen s.len).Reports b :=
    State.Reports.emitFrameLen (s := s.setRecording false) h s.len
  rcases closeFrame_cases c s with ⟨-, e⟩ | ⟨-, e⟩ <;> rw [e]
  · exact .inl (((hlen.emitStatus Status.FRAME).emitNexus _).emitAlarm _)
  · exact .inr (hlen.emitStatus Status.SHORT)

/-- Step 2 after step 1: OVERFLOW, and no frame open, or no status bit. -/
theorem edgeAppend_reports (c : Config) (d : Word W) (s : State W) (t : Word W) :
    (edgeAppend c d (s.latched t)).Reports 0#7 ∨
    ((edgeAppend c d (s.latched t)).recording = false ∧ (edgeAppend c d (s.latched t)).Reports Status.OVERFLOW) := by
  have h := s.latched_reports t
  rcases edgeAppend_cases c d (s.latched t) with ⟨-, e⟩ | ⟨-, -, e⟩ | ⟨-, -, e⟩ <;> rw [e]
  · exact .inl h
  · exact .inr ⟨rfl, h.discard Status.OVERFLOW⟩
  · exact .inl h

/-- Step 4: nothing; OPEN where no frame was open; FRAME or SHORT where one was. -/
theorem edgeSync_reports {c : Config} {d : Word W} {s : State W} {b : BitVec 7} (h : s.Reports b) :
    (edgeSync c d s).Reports b ∨
    (s.recording = false ∧ (edgeSync c d s).Reports (b ||| Status.OPEN)) ∨
    (s.recording = true ∧
      ((edgeSync c d s).Reports (b ||| Status.FRAME) ∨ (edgeSync c d s).Reports (b ||| Status.SHORT))) := by
  rcases edgeSync_cases c d s with ⟨-, e⟩ | ⟨-, hrec, e⟩ | ⟨-, -, -, e⟩ | ⟨-, hrec, -, e⟩ <;> rw [e]
  · exact .inl h
  · exact .inr (.inl ⟨hrec, h.opened d⟩)
  · exact .inl h
  · exact .inr (.inr ⟨hrec, h.closeFrame c⟩)

/-! ### The sets of status bits -/

/-- The sets that occur outside the dead zone, under both values of P_DZ_EXCLUSIVE. -/
def liveStatuses : List (BitVec 7) := [0#7, 0b0000001#7, 0b0001000#7, 0b0001001#7, 0b0000010#7, 0b0000100#7]

/-- The sets that occur in the dead zone, for a value of P_DZ_EXCLUSIVE. -/
def deadStatuses : Bool → List (BitVec 7)
  | false => [0b0010001#7, 0b0011001#7]
  | true => [0b0010000#7, 0b0011000#7]

theorem edge_status_mem_live {c : Config} {t : Word W} {s : State W}
    (h : deadZone c (interval t s.lastEdgeTime) = false) : (edge c t s).status ∈ liveStatuses := by
  rw [edge, edgeDeadZone_of_live h]
  rcases edgeAppend_reports c (interval t s.lastEdgeTime) s t with hb | ⟨hrec, hb⟩
  · rcases edgeSync_reports (c := c) (d := interval t s.lastEdgeTime) hb with e | ⟨-, e⟩ | ⟨-, e | e⟩ <;>
      rw [e.status_eq] <;> decide
  · rcases edgeSync_reports (c := c) (d := interval t s.lastEdgeTime) hb with e | ⟨-, e⟩ | ⟨hr, -⟩
    · rw [e.status_eq]; decide
    · rw [e.status_eq]; decide
    · exact absurd (hrec.symm.trans hr) (by decide)

/-- Where the dead zone is excluded from step 4 (R165, D6). -/
theorem edge_status_mem_dead_excluded {c : Config} {t : Word W} {s : State W} (hx : c.dzExclusive = true)
    (h : deadZone c (interval t s.lastEdgeTime) = true) : (edge c t s).status ∈ deadStatuses true := by
  rw [edge_of_excluded hx h]
  rcases edgeAppend_reports c (interval t s.lastEdgeTime) s t with hb | ⟨-, hb⟩ <;>
    rw [(hb.discard Status.DEADZONE).status_eq] <;> decide

/-- On this hardware, where step 4 opens a frame in the dead zone (R165). -/
theorem edge_status_mem_dead {t : Word W} {s : State W} (h : 20000 < (interval t s.lastEdgeTime).toNat) :
    (edge Config.hardware t s).status ∈ deadStatuses false := by
  rw [edge_of_dead h]
  rcases edgeAppend_reports Config.hardware (interval t s.lastEdgeTime) s t with hb | ⟨-, hb⟩ <;>
    rw [((hb.discard Status.DEADZONE).opened _).status_eq] <;> decide

/-- A state with `n` intervals held since an edge at 0, in a frame opened by 4000 us where one is open: the EDGE at `t` has
the interval `t`. -/
def heldState (recording : Bool) (n : BitVec 9) : State :=
  { State.resetWith 0#32 with recording := recording, len := n, syncWidth := 4000#32 }

/-- Each set outside the dead zone occurs. -/
theorem exists_edge_status_live (x : Bool) {b : BitVec 7} (hb : b ∈ liveStatuses) :
    ∃ (t : Word) (s : State), (edge { Config.hardware with dzExclusive := x } t s).status = b := by
  simp only [liveStatuses, List.mem_cons, List.not_mem_nil, or_false] at hb
  rcases hb with rfl | rfl | rfl | rfl | rfl | rfl
  · exact ⟨300#32, heldState false 0#9, by revert x; decide⟩
  · exact ⟨4000#32, heldState false 0#9, by revert x; decide⟩
  · exact ⟨300#32, heldState true 256#9, by revert x; decide⟩
  · exact ⟨4000#32, heldState true 256#9, by revert x; decide⟩
  · exact ⟨4000#32, heldState true 32#9, by revert x; decide⟩
  · exact ⟨4000#32, heldState true 31#9, by revert x; decide⟩

/-- Each set in the dead zone occurs, with OVERFLOW on a full buffer. -/
theorem exists_edge_status_dead (x : Bool) {b : BitVec 7} (hb : b ∈ deadStatuses x) :
    ∃ (t : Word) (s : State), (edge { Config.hardware with dzExclusive := x } t s).status = b := by
  cases x <;> simp only [deadStatuses, List.mem_cons, List.not_mem_nil, or_false] at hb <;> rcases hb with rfl | rfl
  · exact ⟨20001#32, heldState false 0#9, by decide⟩
  · exact ⟨20001#32, heldState true 256#9, by decide⟩
  · exact ⟨20001#32, heldState false 0#9, by decide⟩
  · exact ⟨20001#32, heldState true 256#9, by decide⟩

/-- The sets an EDGE can report, exactly, for a value of P_DZ_EXCLUSIVE. -/
theorem exists_edge_status_iff (x : Bool) (b : BitVec 7) :
    (∃ (t : Word) (s : State), (edge { Config.hardware with dzExclusive := x } t s).status = b) ↔
      b ∈ liveStatuses ∨ b ∈ deadStatuses x := by
  refine ⟨?only, fun hb => hb.elim (exists_edge_status_live x) (exists_edge_status_dead x)⟩
  case only =>
    rintro ⟨t, s, rfl⟩
    rcases Nat.lt_or_ge 20000 (interval t s.lastEdgeTime).toNat with h | h
    · cases x
      · exact .inr (edge_status_mem_dead h)
      · exact .inr (edge_status_mem_dead_excluded rfl ((deadZone_hardware _).2 h))
    · exact .inl (edge_status_mem_live (deadZone_hardware_eq_false h))

/-- Settles O26: the bits each step can add leave these sets, and each occurs at an EDGE on a `heldState`. -/
theorem edgeStatusSets : Obligations.EdgeStatusSets := by
  unfold Obligations.EdgeStatusSets
  refine ⟨fun b => (exists_edge_status_iff false b).trans ?inclusive,
    fun b => (exists_edge_status_iff true b).trans ?exclusive⟩
  case inclusive => revert b; decide
  case exclusive => revert b; decide

/-- Step 4 writes `sync_width` only where it reports OPEN (R165). -/
theorem edgeSync_syncWidth {c : Config} {d : Word W} {s : State W} (hs : ∃ b, s.Reports b)
    (hopen : (edgeSync c d s).status &&& 0b0000001#7 = 0#7) : (edgeSync c d s).syncWidth = s.syncWidth := by
  rcases edgeSync_cases c d s with ⟨-, e⟩ | ⟨-, -, e⟩ | ⟨-, -, -, e⟩ | ⟨-, -, -, e⟩ <;> rw [e] at hopen ⊢
  · obtain ⟨b, h⟩ := hs
    rw [(h.opened d).status_eq, BitVec.and_or_distrib_right] at hopen
    simp at hopen
  · obtain ⟨-, -, -, hsync, -⟩ := closeFrame_fields c s
    exact hsync

/-- A record is there after steps 1 to 3 (R95). -/
theorem exists_edgeDeadZone_reports (c : Config) (d : Word W) (s : State W) (t : Word W) :
    ∃ b, (edgeDeadZone c d (edgeAppend c d (s.latched t))).Reports b := by
  have happend : ∃ b, (edgeAppend c d (s.latched t)).Reports b :=
    (edgeAppend_reports c d s t).elim (⟨_, ·⟩) (⟨_, ·.2⟩)
  obtain ⟨b, h⟩ := happend
  rcases edgeDeadZone_cases c d (edgeAppend c d (s.latched t)) with ⟨-, e⟩ | ⟨-, e⟩ <;> rw [e]
  · exact ⟨b, h⟩
  · exact ⟨_, h.discard Status.DEADZONE⟩

/-- Settles O25: step 2 writes one entry, step 4 `sync_width` with OPEN, step 1 `last_edge_time`. -/
theorem edgeChangesOneEntryAtMost : Obligations.EdgeChangesOneEntryAtMost := by
  unfold Obligations.EdgeChangesOneEntryAtMost
  intro t s s' h
  obtain rfl := eq_runEvent_of_exec h
  refine ⟨fun k hk => ?entries, fun hopen => ?syncWidth, edge_lastEdgeTime _ t s, edge_port _ t s⟩
  case entries =>
    rw [runEvent, edge, edgeSync_bufRead, edgeDeadZone_bufRead]
    exact edgeAppend_bufRead (s := s.latched t) hk
  case syncWidth =>
    rw [runEvent, edge, edgeSync_syncWidth (exists_edgeDeadZone_reports _ _ s t) hopen]
    simp

/-- FRAME and SHORT are reported by an EDGE alone that closes: while recording with room, with a sync candidate outside
the dead zone and above `sync_width` - 100 (R166). -/
theorem closing_of_edge_status {t : Word W} {s : State W}
    (h : (edge Config.hardware t s).status &&& 0b0000110#7 ≠ 0#7) :
    s.recording = true ∧ s.len.toNat < 256 ∧ 3500 < (interval t s.lastEdgeTime).toNat ∧
    (interval t s.lastEdgeTime).toNat ≤ 20000 ∧
    (s.syncWidth.toNat : Int) - 100 < ((interval t s.lastEdgeTime).toNat : Int) := by
  rcases edge_cases t s _ _ rfl rfl with
    ⟨-, -, e⟩ | ⟨-, -, -, e⟩ | ⟨-, -, e⟩ | ⟨-, -, -, -, e⟩ | ⟨hrec, hroom, hlo, hhi, hc, -⟩ | ⟨-, -, -, e⟩ |
    ⟨-, -, -, e⟩ | ⟨-, -, -, -, e⟩ | ⟨-, -, -, e⟩
  case inr.inr.inr.inr.inl => exact ⟨hrec, hroom, hlo, hhi, (closes_iff _ _ _).1 hc⟩
  all_goals simp [e, State.status, Status.OPEN, Status.OVERFLOW, Status.DEADZONE] at h

/-- The held intervals are at most INACT (I4 of R37). -/
theorem State.Inv.frame_le {s : State W} (h : s.Inv) {v : Word W} (hv : v ∈ s.frame) : v.toNat ≤ 20000 := by
  obtain ⟨i, hi, rfl⟩ := List.mem_map.mp hv
  exact h.i4 i (List.mem_range.mp hi)

/-- A closing EDGE: with at most 32 intervals, the closing one included, the status is SHORT; with more, it is FRAME, with
`frame_len` and both decoders' fields (R167, R169). -/
theorem edge_closing_out {t : Word W} {s : State W} (hrec : s.recording = true) (hroom : s.len.toNat < 256)
    (hcand : 3500 < (interval t s.lastEdgeTime).toNat) (hlive : (interval t s.lastEdgeTime).toNat ≤ 20000)
    (hclose : (s.syncWidth.toNat : Int) - 100 < ((interval t s.lastEdgeTime).toNat : Int)) :
    (s.len.toNat + 1 ≤ 32 ∧ (edge Config.hardware t s).status = Status.SHORT) ∨
    (32 < s.len.toNat + 1 ∧ ∃ o, (edge Config.hardware t s).out = some o ∧ o.frameLen.toNat = s.len.toNat + 1 ∧
      o.nx = nexusDecode Config.hardware (s.frame ++ [interval t s.lastEdgeTime]) ∧
      o.al = alarmDecode Config.hardware (s.frame ++ [interval t s.lastEdgeTime])) := by
  have hlen := State.bufAppend_len_toNat (s.latched t) (interval t s.lastEdgeTime) hroom
  have hframe : ((s.latched t).bufAppend (interval t s.lastEdgeTime)).frame = s.frame ++ [interval t s.lastEdgeTime] :=
    State.frame_bufAppend (s.latched t) _ hroom
  rw [edge_of_closing hrec hroom hcand hlive hclose]
  rcases Nat.lt_or_ge 32 (s.len.toNat + 1) with h | h
  · rw [closeFrame_of_complete rfl (h.trans_eq hlen.symm), hframe]
    exact .inr ⟨h, _, rfl, hlen, rfl, rfl⟩
  · have hmin : ((s.latched t).bufAppend (interval t s.lastEdgeTime)).len.toNat ≤ Config.hardware.minFrame :=
      hlen.trans_le h
    rw [closeFrame_of_short rfl hmin]
    exact .inl ⟨h, rfl⟩

/-- Settles O31: FRAME comes from a closing EDGE with more than 32 intervals, and I4 bounds those held before it. -/
theorem completedFrameBounds : Obligations.CompletedFrameBounds := by
  unfold Obligations.CompletedFrameBounds
  intro t s s' hs h hstatus
  obtain rfl := eq_runEvent_of_exec h
  have closing : ∀ b : BitVec 7, b &&& 0b0000010#7 ≠ 0#7 → b &&& 0b0000110#7 ≠ 0#7 := by decide
  obtain ⟨hrec, hroom, hcand, hlive, hclose⟩ := closing_of_edge_status (closing _ hstatus)
  have hlength : (s.frame ++ [interval t s.lastEdgeTime]).length = s.len.toNat + 1 := by
    simp [State.frame_length]
  refine ⟨(interval t s.lastEdgeTime).toNat, elapsed_interval t s.lastEdgeTime, ?_⟩
  rw [BitVec.ofNat_toNat, BitVec.setWidth_eq, hlength]
  rcases edge_closing_out hrec hroom hcand hlive hclose with ⟨-, hshort⟩ | ⟨hlong, hout⟩
  · exact absurd hstatus (by rw [runEvent, hshort]; decide)
  · refine ⟨hlong, hroom, fun v hv => ?bound, hcand, hclose, hout⟩
    rcases List.mem_append.mp hv with hv | hv
    · exact hs.frame_le hv
    · exact List.mem_singleton.mp hv ▸ hlive

/-- Settles O32: a closing interval would be above 20000 us, in the dead zone; any other one is stored. -/
theorem longSyncFrameNeverCloses : Obligations.LongSyncFrameNeverCloses := by
  unfold Obligations.LongSyncFrameNeverCloses
  intro t s hrec hsync
  refine ⟨_, exec_edge t s, ?status, fun d hel hroom hd => ?stays⟩
  case status =>
    by_contra h
    obtain ⟨-, -, -, hlive, hclose⟩ := closing_of_edge_status h
    omega
  case stays =>
    obtain ⟨-, rfl⟩ := hel.interval_eq
    rw [edge_of_stored hrec hroom hd (.inr (by omega))]
    exact ⟨hrec, rfl⟩

end Sys2Proof.Machine
end

section
/-! SUPPORT, O37, O39, O40, O42 and O57. The windows in use (R132), the signed extractor as two's complement (R134), the
ranges the general extractors refuse (R135), the accepted lengths (R212), and the expansion of `IVS` (R105). -/

namespace Sys2Proof.Machine

open Sys2Proof

variable {W : Nat}

/-- Settles O37: a quarter of each nominal divides both bounds; the two gap windows leave 1250 to 1500 between them. -/
theorem toleranceWindowsInUse : Obligations.ToleranceWindowsInUse := by
  unfold Obligations.ToleranceWindowsInUse
  intro v
  simp only [tol_hardware]
  omega

/-- The complemented range and the range add up to all ones (R134). -/
theorem U_map_not_add {b : List Bool} {s f : Nat} (h : s ≤ f) (hf : f < b.length) :
    U (b.map not) s f + U b s f + 1 = 2 ^ (f - s + 1) := by
  induction f, h using Nat.le_induction with
  | base =>
    rw [U_self, U_self, getD_map_not hf, Nat.sub_self]
    cases b.getD s false <;> rfl
  | succ f hsf ih =>
    have ih := ih (by omega)
    rw [U_succ _ _ _ hsf, U_succ _ _ _ hsf, getD_map_not hf, Nat.succ_sub hsf, pow_succ, ← ih]
    cases b.getD (f + 1) false <;> simp only [Bool.not_true, Bool.not_false, Bool.toNat_true, Bool.toNat_false] <;> omega

/-- The leading symbol says in which half of its numbers a range lies. -/
theorem U_leading (b : List Bool) {s f : Nat} (h : s ≤ f) :
    (b.getD s false).toNat * 2 ^ (f - s) ≤ U b s f ∧ U b s f < ((b.getD s false).toNat + 1) * 2 ^ (f - s) := by
  induction f, h using Nat.le_induction with
  | base =>
    rw [U_self, Nat.sub_self]
    omega
  | succ f hsf ih =>
    have bit := Bool.toNat_lt (b.getD (f + 1) false)
    obtain ⟨lower, upper⟩ := ih
    rw [U_succ _ _ _ hsf, Nat.succ_sub hsf, pow_succ, ← mul_assoc, ← mul_assoc]
    omega

/-- A signed extraction is the two's-complement value of its range (R134). -/
theorem S_eq {b : List Bool} {s f : Nat} (h : s ≤ f) (hf : f < b.length) :
    S b s f = if b.getD s false then (U b s f : Int) - 2 ^ (f - s + 1) else (U b s f : Int) := by
  have complement : (U (b.map not) s f : Int) + U b s f + 1 = 2 ^ (f - s + 1) := by exact_mod_cast U_map_not_add h hf
  unfold S
  split
  · omega
  · rfl

theorem S_bounds {b : List Bool} {s f : Nat} (h : s ≤ f) (hf : f < b.length) :
    -(2 ^ (f - s) : Int) ≤ S b s f ∧ S b s f ≤ 2 ^ (f - s) - 1 := by
  obtain ⟨lower, upper⟩ := U_leading b h
  zify at lower upper
  rw [S_eq h hf, pow_succ]
  cases hb : b.getD s false with
  | false =>
    simp only [hb, Bool.toNat_false] at upper
    simp only [Bool.false_eq_true, if_false]
    omega
  | true =>
    simp only [hb, Bool.toNat_true] at lower upper
    simp only [if_true]
    omega

/-- Settles O39: the complement, incremented and negated, is the number less 2^(f-s+1); the sign is the leading symbol. -/
theorem signedExtractionIsTwosComplement : Obligations.SignedExtractionIsTwosComplement := by
  unfold Obligations.SignedExtractionIsTwosComplement
  exact fun b s f h hf => ⟨S_eq h hf, S_bounds h hf⟩

theorem rangeWellFormed_iff (n s f : Nat) : rangeWellFormed n s f = true ↔ s ≤ f ∧ f < n := by
  simp [rangeWellFormed]

/-- Settles O40: both extractors test `rangeWellFormed` (D30). -/
theorem extractorsRefuseRangesOutside : Obligations.ExtractorsRefuseRangesOutside := by
  unfold Obligations.ExtractorsRefuseRangesOutside
  refine fun b s f => ⟨fun houtside => ?refused, fun hsf hf => ?inside⟩
  case refused =>
    have h : ¬ rangeWellFormed b.length s f = true := by rw [rangeWellFormed_iff]; omega
    exact ⟨if_neg h, if_neg h⟩
  case inside =>
    have h := (rangeWellFormed_iff b.length s f).2 ⟨hsf, hf⟩
    exact ⟨if_pos h, if_pos h⟩

/-- Settles O42: 2 x 36 + 2 and 2 x 24 + 1, and one more under FLOOR. -/
theorem lengthChecksAccept : Obligations.LengthChecksAccept := by
  unfold Obligations.LengthChecksAccept
  exact fun L => ⟨lenOK_exact _ L 2 36 rfl, lenOK_exact _ L 1 24 rfl, lenOK_floor _ L 2 36 rfl, lenOK_floor _ L 1 24 rfl⟩

/-- One more interval puts one more EDGE word, at the time before it plus the interval (R105). -/
theorem expandIntervals_concat (ds : List Nat) (d : Nat) (T : Word W) :
    expandIntervals (ds ++ [d]) T =
      ((expandIntervals ds T).1 ++ [.word (encode (.edge ((expandIntervals ds T).2 + BitVec.ofNat W d)))],
        (expandIntervals ds T).2 + BitVec.ofNat W d) := by
  induction ds generalizing T with
  | nil => rfl
  | cons x xs ih => simp only [List.cons_append, expandIntervals, ih]

/-- Adding an interval to a time puts that many microseconds between them, modulo 2^W_T. -/
theorem elapsed_add_ofNat (T : Word W) (d : Nat) : Elapsed (T + BitVec.ofNat W d) T (d % 2 ^ W) := by
  have h := elapsed_interval (T + BitVec.ofNat W d) T
  rwa [interval, add_sub_cancel_left, BitVec.toNat_ofNat] at h

/-- Settles O57: the last interval's EDGE comes after the expansion of those before it. -/
theorem intervalLinesGiveTheirIntervals : Obligations.IntervalLinesGiveTheirIntervals := by
  unfold Obligations.IntervalLinesGiveTheirIntervals
  intro ds d T
  rw [expandIntervals_concat]
  exact ⟨rfl, elapsed_add_ofNat _ d, rfl⟩

end Sys2Proof.Machine
end

section
/-! SUPPORT, O43, O45, O46, O47 and O54 (Nexus). The gap loop gives `nexusBitsOf` (R215, R216), and a frame made of 36 bits
gives these back. -/

namespace Sys2Proof.Machine

open Sys2Proof

variable {W : Nat}

/-- A number that a field is wide enough for is stored without loss. -/
theorem toNat_ofNat_of_lt {w n : Nat} (h : n < 2 ^ w) : (BitVec.ofNat w n).toNat = n :=
  (BitVec.toNat_ofNat n w).trans (Nat.mod_eq_of_lt h)

/-- The length test (R212). -/
theorem lenOK_hardware_nexus (L : Nat) : lenOK Config.hardware L 2 Config.hardware.nxPairs = true ↔ L = 74 :=
  lenOK_exact _ _ _ _ rfl

/-- The test of the interval before the last of 74 (R213). -/
theorem tol_hardware_nxSyncPulse {F : Frame W} (h : F.length = 74) :
    tol Config.hardware (ival F (F.length - 2)) Config.hardware.nxSyncPulse = true ↔ 375 < ival F 72 ∧ ival F 72 < 625 := by
  rw [h]
  exact tol_hardware_window rfl rfl _

/-- The test of the last interval of 74 (R213). -/
theorem tol_hardware_nxSyncLen {F : Frame W} (h : F.length = 74) :
    tol Config.hardware (ival F (F.length - 1)) Config.hardware.nxSyncLen = true ↔ 3000 < ival F 73 ∧ ival F 73 < 5000 := by
  rw [h]
  exact tol_hardware_window rfl rfl _

/-- Settles O43: each clause fails one test after passing those before it. -/
theorem nexusRejectsLengthAndSync : Obligations.NexusRejectsLengthAndSync := by
  unfold Obligations.NexusRejectsLengthAndSync
  intro F
  have hlen := lenOK_hardware_nexus F.length
  refine ⟨fun h => ?len, fun h hp => ?syncPulse, fun h hp1 hp2 hs => ?syncLen⟩
  case len => exact nexusDecode_len (Bool.eq_false_iff.2 (mt hlen.1 h))
  case syncPulse =>
    exact nexusDecode_syncPulse (hlen.2 h) (Bool.eq_false_iff.2 (mt (tol_hardware_nxSyncPulse h).1 hp))
  case syncLen =>
    exact nexusDecode_syncLen (hlen.2 h) ((tol_hardware_nxSyncPulse h).2 ⟨hp1, hp2⟩)
      (Bool.eq_false_iff.2 (mt (tol_hardware_nxSyncLen h).1 hs))

/-! ### The gap bits -/

/-- A gap's bit, by the windows of R132. -/
theorem classifyGap_hardware (g : Nat) : classifyGap Config.hardware g =
    if 750 < g ∧ g < 1250 then some false else if 1500 < g ∧ g < 2500 then some true else none := by
  have h0 : tol Config.hardware g Config.hardware.nxGap0 = true ↔ 750 < g ∧ g < 1250 := tol_hardware_window rfl rfl g
  have h1 : tol Config.hardware g Config.hardware.nxGap1 = true ↔ 1500 < g ∧ g < 2500 := tol_hardware_window rfl rfl g
  simp only [classifyGap, h0, h1]

/-- The gap loop gives the gap bits in order, then zeros (R215). -/
theorem classifyGaps_hardware (F : Frame W) :
    classifyGaps Config.hardware F = { nb := nexusBitsOf F, nn := (gapBitsOf F).length } :=
  classifyGaps_eq Config.hardware F (gapBitsOf F) <| by
    simp only [classifyGap_hardware]
    rfl

theorem gapBitsOf_length_le (F : Frame W) : (gapBitsOf F).length ≤ 36 :=
  (List.length_filterMap_le _ _).trans_eq List.length_range

theorem nexusBitsOf_length (F : Frame W) : (nexusBitsOf F).length = 36 := by
  have := gapBitsOf_length_le F
  rw [nexusBitsOf, List.length_append, List.length_replicate]
  omega

/-- Every field of a reading holds its value without loss (R95, R217). -/
theorem nexusReading_fields {bits : List Bool} {nn : Nat} (hbits : bits.length = 36) (hnn : nn ≤ 36) {x : NexusFields}
    (hx : x = nexusReading { nb := bits, nn := nn }) :
    x.valid = 1#1 ∧ x.code = 0#3 ∧ x.pair = 0#6 ∧ x.nbits.toNat = nn ∧
    x.id.toNat = U bits 0 7 ∧ x.battery.toNat = U bits 8 8 ∧ x.channel.toNat = U bits 10 11 + 1 ∧
    x.temp.toInt = S bits 14 23 ∧ x.humidity.toNat = U bits 28 35 := by
  have hnbits : nn < 2 ^ 6 := by omega
  have hchannel : U bits 10 11 + 1 < 2 ^ 3 := by
    have := U_lt_two_pow bits (s := 10) (f := 11) (by decide)
    omega
  obtain ⟨hlower, hupper⟩ := S_bounds (b := bits) (s := 14) (f := 23) (by decide) (by omega)
  subst hx
  refine ⟨rfl, rfl, rfl, ?_, ?_, ?_, ?_, ?_, ?_⟩
  · exact toNat_ofNat_of_lt hnbits
  · exact toNat_ofNat_of_lt (U_lt_two_pow bits (by decide))
  · exact toNat_ofNat_of_lt (U_lt_two_pow bits (by decide))
  · exact toNat_ofNat_of_lt hchannel
  · exact BitVec.toInt_ofInt_eq_self (by decide) (le_trans (by decide) hlower) (lt_of_le_of_lt hupper (by decide))
  · exact toNat_ofNat_of_lt (U_lt_two_pow bits (by decide))

/-- Settles O45: an accepted frame's reading is that of `nexusBitsOf`, and every field is wide enough. -/
theorem nexusReadingOfAnAcceptedFrame : Obligations.NexusReadingOfAnAcceptedFrame := by
  unfold Obligations.NexusReadingOfAnAcceptedFrame
  rintro F hF x rfl
  rw [nexusDecode_of_shaped hF, classifyGaps_hardware]
  exact nexusReading_fields (nexusBitsOf_length F) (gapBitsOf_length_le F) rfl

/-- A frame accepted under ZERO_FILL reaches the gaps under REJECT too (R216). -/
theorem nexusDecode_reject_of_shaped {F : Frame W} (hF : NexusShaped F) :
    nexusDecode { Config.hardware with nexusShort := .reject } F =
      nexusGaps { Config.hardware with nexusShort := .reject } F := by
  obtain ⟨hlen, hpulse, hsync, hpulses⟩ := hF
  obtain ⟨h, h1, h2⟩ := NexusSynced.of_windows hlen hpulse hsync
  exact nexusDecode_gaps h h1 h2 (firstBadPulse_eq_none fun i hi => (tol_hardware_nxPulse _).2 (hpulses i hi))

/-- P_NEXUS_SHORT has no part in the gap loop. -/
theorem classifyGaps_nexusShort (c : Config) (x : NexusShort) (F : Frame W) :
    classifyGaps { c with nexusShort := x } F = classifyGaps c F := rfl

/-- The short-count choice under REJECT (R216). -/
theorem nexusGaps_reject (F : Frame W) :
    nexusGaps { Config.hardware with nexusShort := .reject } F =
      if (gapBitsOf F).length < 36 then { code := 5#3, nbits := BitVec.ofNat 6 (gapBitsOf F).length }
      else nexusReading (classifyGaps Config.hardware F) := by
  simp only [nexusGaps, classifyGaps_nexusShort, classifyGaps_hardware, and_true]
  rfl

/-- Settles O47: the two values differ only in the choice for fewer than 36 bits. -/
theorem nexusShortCountParameter : Obligations.NexusShortCountParameter := by
  unfold Obligations.NexusShortCountParameter
  intro F hF
  rw [nexusDecode_reject_of_shaped hF, nexusDecode_of_shaped hF, nexusGaps_reject]
  exact ⟨fun h => if_pos h, fun h => if_neg (by omega)⟩

/-! ### The frame of a bit sequence -/

/-- A pair in front: the first two intervals, then the frame without it. -/
theorem ival_cons_cons (p g : Word W) (F : Frame W) (i : Nat) : ival (p :: g :: F) (i + 2) = ival F i := rfl

theorem nexusFrameOf_cons (b : Bool) (bits : List Bool) :
    nexusFrameOf (b :: bits) = 480#32 :: (if b then 2000#32 else 1000#32) :: nexusFrameOf bits := rfl

theorem nexusFrameOf_length (bits : List Bool) : (nexusFrameOf bits).length = 2 * bits.length + 2 := by
  induction bits with
  | nil => rfl
  | cons b bits ih => rw [nexusFrameOf_cons, List.length_cons, List.length_cons, List.length_cons, ih]; omega

/-- Every bit's pulse. -/
theorem ival_nexusFrameOf_pulse {bits : List Bool} {i : Nat} (h : i < bits.length) :
    ival (nexusFrameOf bits) (2 * i) = 480 := by
  induction bits generalizing i with
  | nil => simp at h
  | cons b bits ih =>
    cases i with
    | zero => rfl
    | succ i => rw [nexusFrameOf_cons, Nat.mul_succ, ival_cons_cons]; exact ih (by simpa using h)

/-- Every bit's gap. -/
theorem ival_nexusFrameOf_gap {bits : List Bool} {i : Nat} (h : i < bits.length) :
    ival (nexusFrameOf bits) (2 * i + 1) = if bits[i] then 2000 else 1000 := by
  induction bits generalizing i with
  | nil => simp at h
  | cons b bits ih =>
    cases i with
    | zero => cases b <;> rfl
    | succ i =>
      rw [nexusFrameOf_cons, Nat.mul_succ, Nat.add_right_comm, ival_cons_cons]
      exact ih (by simpa using h)

/-- The sync pair after the last bit. -/
theorem ival_nexusFrameOf_sync (bits : List Bool) :
    ival (nexusFrameOf bits) (2 * bits.length) = 500 ∧ ival (nexusFrameOf bits) (2 * bits.length + 1) = 4000 := by
  induction bits with
  | nil => exact ⟨rfl, rfl⟩
  | cons b bits ih =>
    rw [nexusFrameOf_cons, List.length_cons, Nat.mul_succ, Nat.add_right_comm, ival_cons_cons, ival_cons_cons]
    exact ih

theorem nexusFrameOf_shaped {bits : List Bool} (h : bits.length = 36) : NexusShaped (nexusFrameOf bits) := by
  obtain ⟨hpulse, hsync⟩ : ival (nexusFrameOf bits) 72 = 500 ∧ ival (nexusFrameOf bits) 73 = 4000 := by
    simpa only [h] using ival_nexusFrameOf_sync bits
  refine ⟨by rw [nexusFrameOf_length, h], by omega, by omega, fun i hi => ?_⟩
  rw [ival_nexusFrameOf_pulse (by omega)]
  decide

/-- The gap of a bit classifies as that bit (R215). -/
theorem gapBitsOf_nexusFrameOf {bits : List Bool} (h : bits.length = 36) : gapBitsOf (nexusFrameOf bits) = bits := by
  have classified : ∀ k ∈ List.range 36,
      (if 750 < ival (nexusFrameOf bits) (2 * k + 1) ∧ ival (nexusFrameOf bits) (2 * k + 1) < 1250 then some false
        else if 1500 < ival (nexusFrameOf bits) (2 * k + 1) ∧ ival (nexusFrameOf bits) (2 * k + 1) < 2500 then some true
        else none) = some (bits.getD k false) := by
    intro k hk
    have hk : k < bits.length := h ▸ List.mem_range.mp hk
    rw [ival_nexusFrameOf_gap hk, List.getD_eq_getElem _ _ hk]
    cases bits[k] <;> rfl
  rw [gapBitsOf, List.filterMap_congr classified, List.filterMap_eq_map']
  exact List.ext_getElem (by simp [h]) fun i hi hi' => by simp [hi']

/-- Settles O46: the frame is accepted, and its gap bits are the sequence, with nothing left to fill. -/
theorem nexusRoundTripOfEveryBitSequence : Obligations.NexusRoundTripOfEveryBitSequence := by
  unfold Obligations.NexusRoundTripOfEveryBitSequence
  rintro bits h x rfl
  have hbits : nexusBitsOf (nexusFrameOf bits) = bits := by
    rw [nexusBitsOf, gapBitsOf_nexusFrameOf h, h, Nat.sub_self, List.replicate_zero, List.append_nil]
  rw [nexusDecode_of_shaped (nexusFrameOf_shaped h), classifyGaps_hardware, hbits, gapBitsOf_nexusFrameOf h, h]
  obtain ⟨hvalid, hcode, -, hnbits, hfields⟩ := nexusReading_fields h le_rfl rfl
  exact ⟨hvalid, hcode, BitVec.eq_of_toNat_eq hnbits, hfields⟩

end Sys2Proof.Machine
end

section
/-! SUPPORT, O49 to O53 and O56. The Alarm decoder on an accepted frame (R253 to R255): `al_tri` is the 24 bits of `ab` as
one number, so `al_id` is its upper 16 bits and `al_cmd` its lower 8. -/

namespace Sys2Proof.Machine

open Sys2Proof

variable {W : Nat}

/-! ### Extractions joined and taken apart -/

/-- Two adjacent ranges make one number, the left one above (R133). -/
theorem U_split (b : List Bool) {s m f : Nat} (hsm : s ≤ m) (hmf : m < f) :
    U b s f = U b s m * 2 ^ (f - m) + U b (m + 1) f := by
  induction f, hmf using Nat.le_induction with
  | base => rw [U_succ _ _ _ hsm, U_self, Nat.succ_sub le_rfl, Nat.sub_self]; omega
  | succ f hmf ih =>
    rw [U_succ _ _ _ (by omega), U_succ _ _ _ (by omega), ih, Nat.succ_sub (by omega), pow_succ, ← mul_assoc]
    omega

/-- Bit `f - i` of a range's number is its symbol `i` (R133). -/
theorem testBit_U (b : List Bool) {s i f : Nat} (hsi : s ≤ i) (hif : i ≤ f) :
    (U b s f).testBit (f - i) = b.getD i false := by
  induction f, hif using Nat.le_induction with
  | base =>
    rw [Nat.sub_self, Nat.testBit_zero]
    rcases eq_or_lt_of_le hsi with rfl | hlt
    · rw [U_self]
      cases b.getD s false <;> rfl
    · obtain ⟨j, rfl⟩ := Nat.exists_eq_succ_of_ne_zero (Nat.ne_zero_of_lt hlt)
      rw [U_succ _ _ _ (Nat.le_of_lt_succ hlt), Nat.mul_add_mod]
      cases b.getD (j + 1) false <;> rfl
  | succ f hif ih =>
    have bit := Bool.toNat_lt (b.getD (f + 1) false)
    have half : (2 * U b s f + (b.getD (f + 1) false).toNat) / 2 = U b s f := by omega
    rw [U_succ _ _ _ (hsi.trans hif), Nat.succ_sub hif, Nat.testBit_succ, half, ih]

/-! ### The verdicts -/

/-- The length test (R252). -/
theorem lenOK_hardware_alarm (L : Nat) : lenOK Config.hardware L 1 Config.hardware.alBits = true ↔ L = 49 :=
  lenOK_exact _ _ _ _ rfl

/-- The test of the interval before the last of 49 (R252). -/
theorem tol_hardware_alSyncPulse {F : Frame W} (h : F.length = 49) :
    tol Config.hardware (ival F (F.length - 2)) Config.hardware.alSyncPulse = true ↔ 300 < ival F 47 ∧ ival F 47 < 500 := by
  rw [h]
  exact tol_hardware_window rfl rfl _

/-- The test of the last interval of 49 (R252). -/
theorem tol_hardware_alSyncLen {F : Frame W} (h : F.length = 49) :
    tol Config.hardware (ival F (F.length - 1)) Config.hardware.alSyncLen = true ↔
      9750 < ival F 48 ∧ ival F 48 < 16250 := by
  rw [h]
  exact tol_hardware_window rfl rfl _

/-- Settles O49: each clause fails one test after passing those before it. -/
theorem alarmRejectsLengthAndSync : Obligations.AlarmRejectsLengthAndSync := by
  unfold Obligations.AlarmRejectsLengthAndSync
  intro F
  have hlen := lenOK_hardware_alarm F.length
  refine ⟨fun h => ?len, fun h hp => ?syncPulse, fun h hp1 hp2 hs => ?syncLen⟩
  case len => exact alarmDecode_len (Bool.eq_false_iff.2 (mt hlen.1 h))
  case syncPulse =>
    exact alarmDecode_syncPulse (hlen.2 h) (Bool.eq_false_iff.2 (mt (tol_hardware_alSyncPulse h).1 hp))
  case syncLen =>
    exact alarmDecode_syncLen (hlen.2 h) ((tol_hardware_alSyncPulse h).2 ⟨hp1, hp2⟩)
      (Bool.eq_false_iff.2 (mt (tol_hardware_alSyncLen h).1 hs))

/-- An accepted frame gives its event, under both phases (R254, R255). -/
theorem alarmDecode_of_shaped_phase (p : Fin 2) {F : Frame W} (hF : AlarmShaped F) :
    alarmDecode { Config.hardware with alarmPhase := p } F = alarmEvent { Config.hardware with alarmPhase := p } F := by
  obtain ⟨hlen, hpulse, hsync⟩ := hF
  exact alarmDecode_event ((lenOK_hardware_alarm _).2 hlen) ((tol_hardware_alSyncPulse hlen).2 hpulse)
    ((tol_hardware_alSyncLen hlen).2 hsync)

theorem alarmDecode_of_shaped {F : Frame W} (hF : AlarmShaped F) :
    alarmDecode Config.hardware F = alarmEvent Config.hardware F := alarmDecode_of_shaped_phase 0 hF

/-- Any frame gives its event, after its length was accepted, or a verdict alone (R250). -/
theorem alarmDecode_cases (c : Config) (F : Frame W) :
    (lenOK c F.length 1 c.alBits = true ∧ alarmDecode c F = alarmEvent c F) ∨
    ∃ v : AlarmVerdict, alarmDecode c F = { code := v.code } := by
  cases h : lenOK c F.length 1 c.alBits with
  | false => exact .inr ⟨_, alarmDecode_len h⟩
  | true =>
    cases h1 : tol c (ival F (F.length - 2)) c.alSyncPulse with
    | false => exact .inr ⟨_, alarmDecode_syncPulse h h1⟩
    | true =>
      cases h2 : tol c (ival F (F.length - 1)) c.alSyncLen with
      | false => exact .inr ⟨_, alarmDecode_syncLen h h1 h2⟩
      | true => exact .inl ⟨rfl, alarmDecode_event h h1 h2⟩

/-! ### The event -/

/-- The fields `id` and `cmd` hold their ranges without loss (R255). -/
theorem alarmEvent_fields (c : Config) (F : Frame W) :
    (alarmEvent c F).valid = 1#1 ∧ (alarmEvent c F).code = 0#2 ∧
    (alarmEvent c F).id.toNat = U (alarmBits c F) 0 15 ∧ (alarmEvent c F).cmd.toNat = U (alarmBits c F) 16 23 :=
  ⟨rfl, rfl, toNat_ofNat_of_lt (U_lt_two_pow _ (by decide)), toNat_ofNat_of_lt (U_lt_two_pow _ (by decide))⟩

/-- The code of a symbol is its two bits (R99). -/
theorem toNat_code_triOf (a c : Bool) : (triOf a c).code.toNat = 2 * a.toNat + c.toNat := by
  cases a <;> cases c <;> rfl

/-- Symbol after symbol the packed code is the number of the bits `F[2k] > AL_TH`, two to a symbol (R99, R253). -/
theorem foldl_triSymbols (c : Config) (F : Frame W) (b : List Bool) (n : Nat)
    (hb : ∀ k, k < 2 * (n + 1) → b.getD k false = long c (ival F (2 * k))) :
    ((List.range (n + 1)).map fun j => triOf (long c (ival F (4 * j))) (long c (ival F (4 * j + 2)))).foldl
      (fun r t => 4 * r + t.code.toNat) 0 = U b 0 (2 * n + 1) := by
  have symbol : ∀ j, j ≤ n → (triOf (long c (ival F (4 * j))) (long c (ival F (4 * j + 2)))).code.toNat =
      2 * (b.getD (2 * j) false).toNat + (b.getD (2 * j + 1) false).toNat := by
    intro j hj
    rw [toNat_code_triOf, hb _ (by omega), hb _ (by omega)]
    ring_nf
  induction n with
  | zero =>
    have h0 := symbol 0 le_rfl
    rw [U_succ _ _ _ le_rfl, U_self]
    simpa using h0
  | succ n ih =>
    rw [List.range_succ, List.map_append, List.foldl_append, ih (fun k hk => hb k (by omega)) fun j hj => symbol j (by omega),
      List.map_singleton, List.foldl_cons, List.foldl_nil, symbol _ le_rfl, Nat.mul_succ,
      U_succ b 0 (2 * n + 2) (by omega), U_succ b 0 (2 * n + 1) (by omega)]
    ring

/-- The bits of phase 0 (R254). -/
theorem alarmBits_hardware (F : Frame W) :
    alarmBits Config.hardware F = (List.range 24).map fun k => decide (1000 < ival F (2 * k)) := rfl

theorem alarmBits_hardware_getD (F : Frame W) {k : Nat} (hk : k < 24) :
    (alarmBits Config.hardware F).getD k false = decide (1000 < ival F (2 * k)) := by
  simp [alarmBits_hardware, hk]

/-- `al_tri` is the 24 bits of `ab` as one number (R99, R253). -/
theorem toNat_packTri_triSymbols (F : Frame W) :
    (packTri (triSymbols Config.hardware F)).toNat = U (alarmBits Config.hardware F) 0 23 := by
  have hfold := foldl_triSymbols Config.hardware F (alarmBits Config.hardware F) 11
    fun k hk => alarmBits_hardware_getD F hk
  rw [← toNat_ofNat_of_lt (U_lt_two_pow (alarmBits Config.hardware F) (s := 0) (f := 23) (by decide)), ← hfold]
  rfl

/-- Bit `23 - k` of `al_tri` is bit `k` of `ab` (R99). -/
theorem getLsbD_packTri_triSymbols (F : Frame W) {k : Nat} (hk : k < 24) :
    (packTri (triSymbols Config.hardware F)).getLsbD (23 - k) = decide (1000 < ival F (2 * k)) := by
  rw [← BitVec.testBit_toNat, toNat_packTri_triSymbols, testBit_U _ (Nat.zero_le k) (by omega),
    alarmBits_hardware_getD F hk]

/-- The two bits of symbol j (R99, R253). -/
theorem getLsbD_packTri_symbol (F : Frame W) {j : Nat} (hj : j < 12) :
    (packTri (triSymbols Config.hardware F)).getLsbD (23 - 2 * j) = decide (1000 < ival F (4 * j)) ∧
    (packTri (triSymbols Config.hardware F)).getLsbD (22 - 2 * j) = decide (1000 < ival F (4 * j + 2)) := by
  have first := getLsbD_packTri_triSymbols F (k := 2 * j) (by omega)
  have second := getLsbD_packTri_triSymbols F (k := 2 * j + 1) (by omega)
  rw [← mul_assoc] at first
  rw [Nat.mul_succ, ← mul_assoc, Nat.sub_add_eq, Nat.sub_right_comm] at second
  exact ⟨first, second⟩

/-- Settles O50: `id` and `cmd` are ranges of `ab`, and `al_tri` is all of it. -/
theorem alarmEventOfAnAcceptedFrame : Obligations.AlarmEventOfAnAcceptedFrame := by
  unfold Obligations.AlarmEventOfAnAcceptedFrame
  rintro F hF x rfl
  rw [alarmDecode_of_shaped hF]
  obtain ⟨hvalid, hcode, hid, hcmd⟩ := alarmEvent_fields Config.hardware F
  exact ⟨hvalid, hcode, hid, hcmd, fun j hj => getLsbD_packTri_symbol F hj⟩

/-- Settles O51: of an accepted frame, one number in its two parts; else every field is 0. -/
theorem alarmTriIsIdThenCmd : Obligations.AlarmTriIsIdThenCmd := by
  unfold Obligations.AlarmTriIsIdThenCmd
  intro F
  rcases alarmDecode_cases Config.hardware F with ⟨-, e⟩ | ⟨v, e⟩ <;> rw [e]
  · obtain ⟨-, -, hid, hcmd⟩ := alarmEvent_fields Config.hardware F
    have htri : (alarmEvent Config.hardware F).tri.toNat = U (alarmBits Config.hardware F) 0 23 :=
      toNat_packTri_triSymbols F
    rw [htri, hid, hcmd, U_split _ (m := 15) (by decide) (by decide)]
  · simp

/-- Settles O53: the phase moves the bits by one interval and leaves the symbols. -/
theorem alarmBitPhaseOneReadsOddIntervals : Obligations.AlarmBitPhaseOneReadsOddIntervals := by
  unfold Obligations.AlarmBitPhaseOneReadsOddIntervals
  rintro F hF x rfl
  rw [alarmDecode_of_shaped_phase 1 hF, alarmDecode_of_shaped hF]
  obtain ⟨hvalid, hcode, hid, hcmd⟩ := alarmEvent_fields { Config.hardware with alarmPhase := 1 } F
  exact ⟨hvalid, hcode, rfl, hid, hcmd⟩

/-- Two adjacent bits as a number. -/
theorem toNat_extractLsb'_two (x : BitVec 24) (k : Nat) :
    (x.extractLsb' k 2).toNat = 2 * (x.getLsbD (k + 1)).toNat + (x.getLsbD k).toNat := by
  have two : ∀ y : BitVec 2, y.toNat = 2 * (y.getLsbD 1).toNat + (y.getLsbD 0).toNat := by decide
  rw [two, BitVec.getLsbD_extractLsb', BitVec.getLsbD_extractLsb']
  simp

/-- The character of a symbol, by its two bits (R99). -/
theorem triChar_bits (a c : Bool) :
    triChar (2 * a.toNat + c.toNat) = if a then (if c then '1' else 'X') else (if c then 'Z' else '0') := by
  cases a <;> cases c <;> rfl

/-- Settles O56: symbol j's character is chosen by its two bits. -/
theorem publishedTriSpellsTheSymbols : Obligations.PublishedTriSpellsTheSymbols := by
  unfold Obligations.PublishedTriSpellsTheSymbols
  intro F hF
  rw [alarmDecode_of_shaped hF]
  refine List.map_congr_left fun j hj => ?_
  have hj := List.mem_range.mp hj
  obtain ⟨first, second⟩ := getLsbD_packTri_symbol F hj
  have above : 22 - 2 * j + 1 = 23 - 2 * j := by omega
  rw [toNat_extractLsb'_two, above, alarmEvent, first, second, triChar_bits]
  simp only [decide_eq_true_eq]

end Sys2Proof.Machine
end

section
/-! SUPPORT, O52, O54 and O55. What a decoder reads of a frame, so that frames alike in it decode alike; and the lengths
that go with a reading. -/

namespace Sys2Proof.Machine

open Sys2Proof

variable {W : Nat}

/-! ### What the Alarm decoder reads -/

/-- The event reads the even intervals before the sync pair alone (R253, R254). -/
theorem alarmEvent_congr {F G : Frame W} (h : ∀ k, k < 24 → ival F (2 * k) = ival G (2 * k)) :
    alarmEvent Config.hardware F = alarmEvent Config.hardware G := by
  have even : ∀ i, i % 2 = 0 → i < 48 → ival F i = ival G i := by
    intro i heven hi
    obtain ⟨k, rfl⟩ := Nat.dvd_of_mod_eq_zero heven
    exact h k (by omega)
  have hbits : alarmBits Config.hardware F = alarmBits Config.hardware G := by
    rw [alarmBits_hardware, alarmBits_hardware]
    exact List.map_congr_left fun k hk => by rw [h k (List.mem_range.mp hk)]
  have hsyms : triSymbols Config.hardware F = triSymbols Config.hardware G := by
    refine List.map_congr_left fun j hj => ?_
    have hj : j < 12 := List.mem_range.mp hj
    rw [even (4 * j) (by omega) (by omega), even (4 * j + 2) (by omega) (by omega)]
  rw [alarmEvent, alarmEvent, hbits, hsyms]

/-- Frames of accepted lengths, alike in the sync pair and in the even intervals before it, decode alike; P_LEN_DIV has its
part in the lengths alone (R252). -/
theorem alarmDecode_congr (d : LenDiv) {F G : Frame W}
    (hF : lenOK { Config.hardware with lenDiv := d } F.length 1 24 = true) (hG : G.length = 49)
    (hpulse : ival F (F.length - 2) = ival G (G.length - 2)) (hsync : ival F (F.length - 1) = ival G (G.length - 1))
    (hdata : ∀ k, k < 24 → ival F (2 * k) = ival G (2 * k)) :
    alarmDecode { Config.hardware with lenDiv := d } F = alarmDecode Config.hardware G := by
  have hG' := (lenOK_hardware_alarm _).2 hG
  cases h1 : tol Config.hardware (ival G (G.length - 2)) Config.hardware.alSyncPulse with
  | false => rw [alarmDecode_syncPulse hG' h1]; exact alarmDecode_syncPulse hF (hpulse ▸ h1)
  | true =>
    cases h2 : tol Config.hardware (ival G (G.length - 1)) Config.hardware.alSyncLen with
    | false => rw [alarmDecode_syncLen hG' h1 h2]; exact alarmDecode_syncLen hF (hpulse ▸ h1) (hsync ▸ h2)
    | true =>
      rw [alarmDecode_event hG' h1 h2, ← alarmEvent_congr hdata]
      exact alarmDecode_event hF (hpulse ▸ h1) (hsync ▸ h2)

/-- Settles O52: a frame of 49 is read at the even indexes, 47 and 48; any other is not read. -/
theorem alarmIgnoresOddIntervals : Obligations.AlarmIgnoresOddIntervals := by
  unfold Obligations.AlarmIgnoresOddIntervals
  intro F G hlen hagree
  by_cases h : F.length = 49
  · have hG : G.length = 49 := hlen ▸ h
    have hival : ∀ i, i < 49 → (i % 2 = 0 ∨ 47 ≤ i) → ival F i = ival G i := by
      intro i hi hread
      rw [ival, ival, List.getD_eq_getElem?_getD, List.getD_eq_getElem?_getD, hagree i (h ▸ hi) hread]
    refine alarmDecode_congr .exact ((lenOK_hardware_alarm _).2 h) hG ?_ ?_ fun k hk => hival _ (by omega) (by omega)
    · rw [h, hG]; exact hival 47 (by decide) (by decide)
    · rw [h, hG]; exact hival 48 (by decide) (by decide)
  · have rejected : ∀ H : Frame, H.length = F.length → lenOK Config.hardware H.length 1 Config.hardware.alBits = false :=
      fun H hH => Bool.eq_false_iff.2 (mt (lenOK_hardware_alarm _).1 (hH ▸ h))
    rw [alarmDecode_len (rejected F rfl), alarmDecode_len (rejected G hlen.symm)]

/-! ### What the Nexus decoder reads -/

/-- The pulse search reads the even intervals before the sync pair alone (R214). -/
theorem firstBadPulse_congr {F G : Frame W} (h : ∀ k, k < 36 → ival F (2 * k) = ival G (2 * k)) :
    firstBadPulse Config.hardware F = firstBadPulse Config.hardware G :=
  List.find?_congr fun k hk => by rw [h k (List.mem_range.mp hk)]

/-- The gap loop reads the odd ones alone (R215). -/
theorem gapBitsOf_congr {F G : Frame W} (h : ∀ k, k < 36 → ival F (2 * k + 1) = ival G (2 * k + 1)) :
    gapBitsOf F = gapBitsOf G :=
  List.filterMap_congr fun k hk => by rw [h k (List.mem_range.mp hk)]

theorem nexusGaps_congr {F G : Frame W} (h : ∀ k, k < 36 → ival F (2 * k + 1) = ival G (2 * k + 1)) :
    nexusGaps Config.hardware F = nexusGaps Config.hardware G := by
  rw [nexusGaps_of_zeroFill rfl, nexusGaps_of_zeroFill rfl, classifyGaps_hardware, classifyGaps_hardware, nexusBitsOf,
    nexusBitsOf, gapBitsOf_congr h]

/-- Frames of accepted lengths, alike in the sync pair and in the 72 intervals of the data pairs, decode alike; P_LEN_DIV
has its part in the lengths alone (R212). -/
theorem nexusDecode_congr (d : LenDiv) {F G : Frame W}
    (hF : lenOK { Config.hardware with lenDiv := d } F.length 2 36 = true) (hG : G.length = 74)
    (hpulse : ival F (F.length - 2) = ival G (G.length - 2)) (hsync : ival F (F.length - 1) = ival G (G.length - 1))
    (hdata : ∀ i, i < 72 → ival F i = ival G i) :
    nexusDecode { Config.hardware with lenDiv := d } F = nexusDecode Config.hardware G := by
  have hG' := (lenOK_hardware_nexus _).2 hG
  have hbad : firstBadPulse Config.hardware F = firstBadPulse Config.hardware G :=
    firstBadPulse_congr fun k hk => hdata _ (by omega)
  cases h1 : tol Config.hardware (ival G (G.length - 2)) Config.hardware.nxSyncPulse with
  | false => rw [nexusDecode_syncPulse hG' h1]; exact nexusDecode_syncPulse hF (hpulse ▸ h1)
  | true =>
    cases h2 : tol Config.hardware (ival G (G.length - 1)) Config.hardware.nxSyncLen with
    | false => rw [nexusDecode_syncLen hG' h1 h2]; exact nexusDecode_syncLen hF (hpulse ▸ h1) (hsync ▸ h2)
    | true =>
      cases h3 : firstBadPulse Config.hardware G with
      | some i => rw [nexusDecode_pulse hG' h1 h2 h3]; exact nexusDecode_pulse hF (hpulse ▸ h1) (hsync ▸ h2) (hbad.trans h3)
      | none =>
        rw [nexusDecode_gaps hG' h1 h2 h3, ← nexusGaps_congr fun k hk => hdata _ (by omega)]
        exact nexusDecode_gaps hF (hpulse ▸ h1) (hsync ▸ h2) (hbad.trans h3)

/-! ### P_LEN_DIV -/

/-- An interval of the data part. -/
theorem ival_append_of_lt {D : Frame W} (E : Frame W) {i : Nat} (h : i < D.length) : ival (D ++ E) i = ival D i := by
  rw [ival, List.getD_append _ _ _ _ h, ival]

/-- An interval after the data part. -/
theorem ival_append_length (D E : Frame W) (i : Nat) : ival (D ++ E) (D.length + i) = ival E i := by
  rw [ival, List.getD_append_right _ _ _ _ (Nat.le_add_right _ _), Nat.add_sub_cancel_left, ival]

/-- Settles O54: the sync pair is read from the end and the data from the front, so that nothing reads the interval
between them. -/
theorem floorIgnoresTheExtraInterval : Obligations.FloorIgnoresTheExtraInterval := by
  unfold Obligations.FloorIgnoresTheExtraInterval
  intro D x p l
  have hlong : (D ++ [x, p, l]).length = D.length + 3 := by simp
  have hshort : (D ++ [p, l]).length = D.length + 2 := by simp
  have hpulse : ival (D ++ [x, p, l]) (D.length + 3 - 2) = ival (D ++ [p, l]) (D.length + 2 - 2) :=
    (ival_append_length D [x, p, l] 1).trans (ival_append_length D [p, l] 0).symm
  have hsync : ival (D ++ [x, p, l]) (D.length + 3 - 1) = ival (D ++ [p, l]) (D.length + 2 - 1) :=
    (ival_append_length D [x, p, l] 2).trans (ival_append_length D [p, l] 1).symm
  have hdata : ∀ i, i < D.length → ival (D ++ [x, p, l]) i = ival (D ++ [p, l]) i := fun i hi =>
    (ival_append_of_lt _ hi).trans (ival_append_of_lt _ hi).symm
  rw [← hlong, ← hshort] at hpulse hsync
  refine ⟨fun h => ?nexus, fun h => ?alarm⟩
  case nexus =>
    have hF := (lenOK_floor { Config.hardware with lenDiv := .floor } (D ++ [x, p, l]).length 2 36 rfl).2 (by omega)
    exact nexusDecode_congr .floor hF (by omega) hpulse hsync fun i hi => hdata i (by omega)
  case alarm =>
    have hF := (lenOK_floor { Config.hardware with lenDiv := .floor } (D ++ [x, p, l]).length 1 24 rfl).2 (by omega)
    exact alarmDecode_congr .floor hF (by omega) hpulse hsync fun k hk => hdata _ (by omega)

/-- A Nexus reading needs an accepted length (R212). -/
theorem lenOK_of_nexus_valid {c : Config} {F : Frame W} (h : (nexusDecode c F).valid = 1#1) :
    lenOK c F.length 2 c.nxPairs = true := by
  by_contra hlen
  rw [nexusDecode_len (Bool.eq_false_iff.2 hlen)] at h
  exact absurd h (by decide)

/-- So does an Alarm event (R252). -/
theorem lenOK_of_alarm_valid {c : Config} {F : Frame W} (h : (alarmDecode c F).valid = 1#1) :
    lenOK c F.length 1 c.alBits = true := by
  by_contra hlen
  rw [alarmDecode_len (Bool.eq_false_iff.2 hlen)] at h
  exact absurd h (by decide)

/-- Settles O55: the accepted lengths are 74 and 75 against 49 and 50. -/
theorem atMostOneReadingPerFrame : Obligations.AtMostOneReadingPerFrame := by
  unfold Obligations.AtMostOneReadingPerFrame
  rintro d F ⟨hnexus, halarm⟩
  have hn := lenOK_of_nexus_valid hnexus
  have ha := lenOK_of_alarm_valid halarm
  cases d with
  | exact =>
    have hn : F.length = 2 * 36 + 2 := (lenOK_exact _ _ _ _ rfl).1 hn
    have ha : F.length = 2 * 24 + 1 := (lenOK_exact _ _ _ _ rfl).1 ha
    omega
  | floor =>
    have hn : F.length = 2 * 36 + 2 ∨ F.length = 2 * 36 + 2 + 1 := (lenOK_floor _ _ _ _ rfl).1 hn
    have ha : F.length = 2 * 24 + 1 ∨ F.length = 2 * 24 + 1 + 1 := (lenOK_floor _ _ _ _ rfl).1 ha
    omega

end Sys2Proof.Machine
end
